-- ==== Sys2Proof/Word.lean ====
section
/-! DEFINITION. The 64-bit word of the rat128 CORE and its conversions to integers (00_scope.md R9, R13, R17). -/

namespace Sys2Proof

/-- A 64-bit register word (00_scope.md R9, W = 64). -/
abbrev Word := BitVec 64

/-- One byte lane of the register port (20_memory.md R63). -/
abbrev Byte := BitVec 8

/-- `sint64(w)` of R13: the two's-complement integer a word denotes. -/
abbrev sint64 (w : Word) : Int := w.toInt

/-- `uint64(w)` of R13: the word read as unsigned. -/
abbrev uint64 (w : Word) : Nat := w.toNat

/-- `word64(i)` of R13: the 64-bit pattern of an integer. R13 applies it only inside [MIN, MAX]; log 12. -/
abbrev word64 (i : Int) : Word := BitVec.ofInt 64 i

/-- `sext_N(v)` of R13 (no command needs it). -/
def sext {n : Nat} (v : BitVec n) : Word := v.signExtend 64

/-- `zext_N(v)` of R13 (no command needs it). -/
def zext {n : Nat} (v : BitVec n) : Word := v.zeroExtend 64

/-- `MAX` of R17. -/
def MAX : Int := 2 ^ 63 - 1

/-- `MIN` of R17. -/
def MIN : Int := -2 ^ 63

end Sys2Proof
end

