-- ==== Sys2Proof/Config.lean ====
section
/-! DEFINITION. The two parameters 00_scope.md R11 leaves open. Neither has a value in Lean: no statement can rest
on one. -/

namespace Sys2Proof

/-- PORT_BASE / 256 (R11, 20_memory.md R61: PORT_BASE is a multiple of 256); log 4. -/
opaque Config.portBasePage : Nat

/-- `PORT_BASE` of R11: the host address of the register window. -/
def Config.portBase : Nat := 256 * Config.portBasePage

/-- LATENCY(cmd, operands) − 1 (R11: at least 1 cycle, no upper bound promised): the CMD value and the words of the
source registers give the number of further cycles; log 3. -/
opaque Config.extraCycles : Word → List Word → Nat

/-- `LATENCY(cmd, operands)` of R11, at least 1. -/
def Config.latency (cmd : Word) (operands : List Word) : Nat := Config.extraCycles cmd operands + 1

end Sys2Proof
end

