-- ==== Sys2Proof/Syntax.lean ====
section
/-! DEFINITION. The twenty commands of 30_encoding.md R86, one constructor per row of the opcode table. -/

namespace Sys2Proof

/-- An index into the G file, G0 to G7 (10_state.md R32, 30_encoding.md R82). -/
abbrev GReg := Fin 8

/-- An index into the Q file, Q0 to Q7 (10_state.md R33, 30_encoding.md R82). -/
abbrev QReg := Fin 8

/-- A command with its operands in the order RD, RS1, RS2, RD2, RD3 of 30_encoding.md R86 and R89; an unused
field has no argument. -/
inductive Instr where
  /-- NOP, OPC 0x00 (R230). -/
  | nop
  /-- XGCD, OPC 0x01 (R102): rd receives d, rs1 holds m, rs2 holds n, rd2 receives a, rd3 receives b. -/
  | xgcd (rd rs1 rs2 rd2 rd3 : GReg)
  /-- GCD, OPC 0x02 (R103). -/
  | gcd (rd rs1 rs2 : GReg)
  /-- QNEW, OPC 0x10 (R121): rs1 holds the raw numerator, rs2 the raw denominator. -/
  | qnew (rd : QReg) (rs1 rs2 : GReg)
  /-- QVALID, OPC 0x11 (R122). -/
  | qvalid (rd : GReg) (rs1 : QReg)
  /-- QNUM, OPC 0x12 (R123). -/
  | qnum (rd : GReg) (rs1 : QReg)
  /-- QDEN, OPC 0x13 (R124). -/
  | qden (rd : GReg) (rs1 : QReg)
  /-- QSGN, OPC 0x14 (R125). -/
  | qsgn (rd : GReg) (rs1 : QReg)
  /-- QISZ, OPC 0x15 (R126). -/
  | qisz (rd : GReg) (rs1 : QReg)
  /-- QMOV, OPC 0x16 (R127). -/
  | qmov (rd rs1 : QReg)
  /-- QADD, OPC 0x20 (R154). -/
  | qadd (rd rs1 rs2 : QReg)
  /-- QSUB, OPC 0x21 (R155). -/
  | qsub (rd rs1 rs2 : QReg)
  /-- QMUL, OPC 0x22 (R163). -/
  | qmul (rd rs1 rs2 : QReg)
  /-- QDIV, OPC 0x23 (R164): rs1 is the dividend, rs2 the divisor. -/
  | qdiv (rd rs1 rs2 : QReg)
  /-- QINV, OPC 0x24 (R165). -/
  | qinv (rd rs1 : QReg)
  /-- QNEG, OPC 0x25 (R166). -/
  | qneg (rd rs1 : QReg)
  /-- QABS, OPC 0x26 (R167). -/
  | qabs (rd rs1 : QReg)
  /-- QCMP, OPC 0x27 (R168). -/
  | qcmp (rd : GReg) (rs1 rs2 : QReg)
  /-- Q2F, OPC 0x30 (R202). -/
  | q2f (rd : GReg) (rs1 : QReg)
  /-- F2Q, OPC 0x31 (R205). -/
  | f2q (rd : QReg) (rs1 : GReg)
  deriving DecidableEq, Repr

end Sys2Proof
end

