-- ==== Sys2Proof/Machine/State.lean ====
section
/-! DEFINITION. The state of the rat128 CORE (10_state.md), the inputs the host and the platform give it, and the
state after reset. -/

namespace Sys2Proof.Machine

/-- One rational register (10_state.md R33): the numerator word and the biased denominator word (denominator − 1). -/
structure RatReg where
  n : Word
  db : Word
  deriving DecidableEq, Repr

/-- The engine (10_state.md R30, R41, R46): idle, or executing the command that CMD holds. `cyclesLeft` is how many
more cycles pass before the cycle in which the command completes (LATENCY, 00_scope.md R11; log 3). -/
inductive Engine where
  | idle
  | executing (cyclesLeft : Nat)
  deriving DecidableEq, Repr

/-- What a host access does (00_scope.md R15); `v` is the data a write carries. -/
inductive AccessKind where
  | read
  | write (v : Word)
  deriving DecidableEq, Repr

/-- A host access to the register port: its byte offset from PORT_BASE, its width in bytes, and its kind. An access
may fail to be admitted (20_memory.md R61, R64). -/
structure HostAccess where
  off : Nat
  bytes : Nat
  kind : AccessKind
  deriving DecidableEq, Repr

/-- What the world outside does in one cycle: nothing, the host presents one access, or the platform asserts reset
(10_state.md R30, 70_reset_and_hazards.md R270); log 1. -/
inductive Input where
  | quiet
  | access (a : HostAccess)
  | reset
  deriving DecidableEq, Repr

/-- The state. The first six fields are all the state 10_state.md R46 lists; the last two are the model's own. -/
structure State where
  /-- G0 to G7 (R32). -/
  g : Vector Word 8
  /-- Q0 to Q7 (R33). -/
  q : Vector RatReg 8
  /-- STATUS (R38); its fields are read and written by Machine/Flags.lean. -/
  status : Word
  /-- CMD (R43). -/
  cmd : Word
  /-- Idle, or a command in execution (R41, R46). -/
  engine : Engine
  /-- The model's own: what the host and the platform do from here on, one entry a cycle, oldest first; after the
  last entry nothing happens any more (log 1). -/
  inputs : List Input
  /-- The model's own: what host reads have returned, oldest first (log 2). -/
  returned : List Word
  deriving DecidableEq, Repr

/-- Why the machine stops. -/
inductive Fault where
  /-- Raised by the port step for a host access that is not admitted: not 64 bits wide, not aligned to 8, or beyond
  offset 0xFF (20_memory.md R64: the host is stuck). Safe: the model stops where the spec gives no step (log 5). -/
  | accessNotAdmitted (a : HostAccess)
  deriving DecidableEq, Repr

/-- Why the model gives no meaning. -/
inductive Refusal where
  /-- An instruction without a meaning, raised by `exec`'s arm of it; safe. No arm raises it: every command has its
  meaning. -/
  | notModelled (mnemonic : String)
  deriving DecidableEq, Repr

/-- What one step or one command answers. -/
abbrev Result := Host.Outcome State Fault Refusal

/-- The state after reset (10_state.md R46, 70_reset_and_hazards.md R270): every register word 0 and the engine idle.
The model's own two lists are empty (log 1, log 2). -/
def State.reset : State where
  g := Vector.replicate 8 0#64
  q := Vector.replicate 8 ⟨0#64, 0#64⟩
  status := 0#64
  cmd := 0#64
  engine := .idle
  inputs := []
  returned := []

end Sys2Proof.Machine
end

