-- ==== Sys2Proof/Machine/Flags.lean ====
section
/-! DEFINITION. The fields of STATUS (10_state.md R38), the error kinds and their codes (60_exceptions.md R240). -/

namespace Sys2Proof.Machine

/-- The error kinds of R240. -/
inductive ErrKind where
  | denominatorInvalid
  | denominatorOverflow
  | numeratorOverflow
  | divisionByZero
  /-- Reserved for the textual layer; no command produces it (R240, 30_encoding.md R88). -/
  | invalidFormat
  | operandInvalid
  | illegalCommand
  deriving DecidableEq, Repr

/-- The code of an error kind (R240); 0 is OK. -/
def errCode : ErrKind → BitVec 3
  | .denominatorInvalid => 1
  | .denominatorOverflow => 2
  | .numeratorOverflow => 3
  | .divisionByZero => 4
  | .invalidFormat => 5
  | .operandInvalid => 6
  | .illegalCommand => 7

/-- STATUS.ERR, bits 2:0 (R38). -/
def statusErr (st : Word) : BitVec 3 := st.extractLsb' 0 3

/-- STATUS.EXACT, bit 3 (R38). -/
def statusExact (st : Word) : Bool := st.getLsbD 3

/-- STATUS.BUSY, bit 4 (R38). -/
def statusBusy (st : Word) : Bool := st.getLsbD 4

/-- STATUS.ESTICKY, bit 5 (R38). -/
def statusSticky (st : Word) : Bool := st.getLsbD 5

/-- The reserved bits 63:6 of STATUS (R38). -/
def statusReserved (st : Word) : BitVec 58 := st.extractLsb' 6 58

/-- STATUS with bit `i` set to `b`. -/
def withBit (st : Word) (i : Nat) (b : Bool) : Word :=
  if b then st ||| 1#64 <<< i else st &&& ~~~(1#64 <<< i)

/-- `STATUS.ERR <- e` (R39). -/
def withErr (st : Word) (e : BitVec 3) : Word := st &&& ~~~7#64 ||| BitVec.setWidth 64 e

/-- `STATUS.EXACT <- b` (R40). -/
def withExact (st : Word) (b : Bool) : Word := withBit st 3 b

/-- `STATUS.BUSY <- b` (R41). -/
def withBusy (st : Word) (b : Bool) : Word := withBit st 4 b

/-- `STATUS.ESTICKY <- b` (R42). -/
def withSticky (st : Word) (b : Bool) : Word := withBit st 5 b

/-- STATUS when a command completes without error (R39, 30_encoding.md R90): ERR 0, BUSY 0. -/
def statusAfterOk (st : Word) : Word := withBusy (withErr st 0) false

/-- STATUS when a command completes with error kind `e` (R42, R243): ERR its code, ESTICKY 1, BUSY 0. -/
def statusAfterError (e : ErrKind) (st : Word) : Word := withBusy (withSticky (withErr st (errCode e)) true) false

/-- STATUS after a host write of `v` (R38, R42, 20_memory.md R62): a 1 in bit 5 clears ESTICKY; nothing else changes. -/
def statusAfterHostWrite (st v : Word) : Word := if v.getLsbD 5 then withSticky st false else st

end Sys2Proof.Machine
end

