-- ==== Sys2Proof/Machine/Operands.lean ====
section
/-! DEFINITION. Register reads and writes, the storage form and validity of a rational register (10_state.md R32 to
R36), the integer helpers of 00_scope.md R17, and the words of a command's source registers. -/

namespace Sys2Proof.Machine

/-- `bitlen(k)` of R17: the least L with k < 2^L. -/
def bitlen (k : Nat) : Nat := if k = 0 then 0 else Nat.log2 k + 1

/-- `isPow2(k)` of R17. -/
def isPow2 (k : Nat) : Bool := decide (0 < k) && decide (k = 2 ^ Nat.log2 k)

/-- `G[i]` (00_scope.md R14). -/
def readG (s : State) (i : GReg) : Word := s.g[i]

/-- `G[i] <- v` (R14). -/
def writeG (s : State) (i : GReg) (v : Word) : State := { s with g := s.g.set i v }

/-- The two words of `Q[i]` (R14). -/
def readQ (s : State) (i : QReg) : RatReg := s.q[i]

/-- Both words of `Q[i]` written (R14). -/
def writeQ (s : State) (i : QReg) (x : RatReg) : State := { s with q := s.q.set i x }

/-- `num(Q[i])` (10_state.md R34). -/
def RatReg.num (x : RatReg) : Int := sint64 x.n

/-- `den(Q[i])` (R34), in [−2^63 + 1, 2^63]. -/
def RatReg.den (x : RatReg) : Int := sint64 x.db + 1

/-- A numerator and a denominator as unbounded integers (00_scope.md R13). -/
structure Ratio where
  num : Int
  den : Int
  deriving DecidableEq, Repr

/-- The pair a register denotes (R34). -/
def RatReg.toRatio (x : RatReg) : Ratio := ⟨x.num, x.den⟩

/-- The storage form of n/d (R34): N is word64(n), DB is word64(d − 1). -/
def storeRatio (r : Ratio) : RatReg := ⟨word64 r.num, word64 (r.den - 1)⟩

/-- The four conditions of R35 on the integers a register denotes. -/
def Ratio.valid (r : Ratio) : Bool :=
  decide (1 ≤ r.den) && decide (r.den ≤ MAX) && r.num != MIN &&
    (if r.num = 0 then r.den == 1 else Int.gcd r.num r.den == 1)

/-- `Valid(Q[i])` (R35). -/
def RatReg.valid (x : RatReg) : Bool := x.toRatio.valid

/-- The words of a Q source. -/
def ratWords (x : RatReg) : List Word := [x.n, x.db]

/-- The words of the source registers a command names, RS1 before RS2 (30_encoding.md R86); these are the operands
of LATENCY (00_scope.md R11, log 3). -/
def sourceWords (i : Instr) (s : State) : List Word :=
  match i with
  | .nop => []
  | .xgcd _ rs1 rs2 _ _ => [readG s rs1, readG s rs2]
  | .gcd _ rs1 rs2 => [readG s rs1, readG s rs2]
  | .qnew _ rs1 rs2 => [readG s rs1, readG s rs2]
  | .qvalid _ rs1 => ratWords (readQ s rs1)
  | .qnum _ rs1 => ratWords (readQ s rs1)
  | .qden _ rs1 => ratWords (readQ s rs1)
  | .qsgn _ rs1 => ratWords (readQ s rs1)
  | .qisz _ rs1 => ratWords (readQ s rs1)
  | .qmov _ rs1 => ratWords (readQ s rs1)
  | .qadd _ rs1 rs2 => ratWords (readQ s rs1) ++ ratWords (readQ s rs2)
  | .qsub _ rs1 rs2 => ratWords (readQ s rs1) ++ ratWords (readQ s rs2)
  | .qmul _ rs1 rs2 => ratWords (readQ s rs1) ++ ratWords (readQ s rs2)
  | .qdiv _ rs1 rs2 => ratWords (readQ s rs1) ++ ratWords (readQ s rs2)
  | .qinv _ rs1 => ratWords (readQ s rs1)
  | .qneg _ rs1 => ratWords (readQ s rs1)
  | .qabs _ rs1 => ratWords (readQ s rs1)
  | .qcmp _ rs1 rs2 => ratWords (readQ s rs1) ++ ratWords (readQ s rs2)
  | .q2f _ rs1 => ratWords (readQ s rs1)
  | .f2q _ rs1 => [readG s rs1]

end Sys2Proof.Machine
end

