-- ==== Sys2Proof/Machine/Ops.lean ====
section
/-! DEFINITION. The shared operations of the execution frame (30_encoding.md R90): raising an error, which is all the
block has of an exception (60_exceptions.md R243, R246), finishing, and the operand check (R92). -/

namespace Sys2Proof.Machine

/-- The state after `complete_error(E)` of R90 (60_exceptions.md R243): ERR takes the code, ESTICKY is set, BUSY
returns to 0, the engine is idle, and no G, Q or EXACT is written. -/
def completeError (e : ErrKind) (s : State) : State :=
  { s with status := statusAfterError e s.status, engine := .idle }

/-- The state after `finish` of R90 with nothing left to write: ERR 0, BUSY 0, the engine idle. -/
def completeOk (s : State) : State := { s with status := statusAfterOk s.status, engine := .idle }

/-- `raise E` (00_scope.md R16, 60_exceptions.md R243). The block goes on: an error is never fatal. -/
def raise (e : ErrKind) (s : State) : Result := .next (completeError e s)

/-- `finish` (00_scope.md R16, 30_encoding.md R93) in the state that holds the destination writes. -/
def finish (s : State) : Result := .next (completeOk s)

/-- `finish` after writing one G register. -/
def finishG (rd : GReg) (v : Word) (s : State) : Result := finish (writeG s rd v)

/-- `finish` after writing one Q register with both its words. -/
def finishQ (rd : QReg) (x : RatReg) (s : State) : Result := finish (writeQ s rd x)

/-- The end of a rule whose result is a pair or an error: `Q[RD] <- (n', d')`, or `raise`. -/
def finishRatio (rd : QReg) (r : Except ErrKind Ratio) (s : State) : Result :=
  match r with
  | .ok p => finishQ rd (storeRatio p) s
  | .error e => raise e s

/-- The operand check of R92 on one Q source, then the rule on the integers it denotes. -/
def checkQ (x : RatReg) (s : State) (rule : Ratio → Result) : Result :=
  if x.valid then rule x.toRatio else raise .operandInvalid s

/-- The operand check of R92 on two Q sources, then the rule. -/
def checkQQ (x y : RatReg) (s : State) (rule : Ratio → Ratio → Result) : Result :=
  checkQ x s fun rx => checkQ y s fun ry => rule rx ry

/-- A Boolean result in a G register (10_state.md R32). -/
def boolWord (b : Bool) : Word := if b then 1 else 0

end Sys2Proof.Machine
end

