-- ==== Sys2Proof/Machine/Construct.lean ====
section
/-! DEFINITION. The constructor, the validity test and the accessors (41_construct.md). -/

namespace Sys2Proof.Machine

/-- `Reduce(n, d)` of R120. Both divisions are exact. -/
def reduce (n d : Int) : Except ErrKind Ratio :=
  if d ≤ 0 then .error .denominatorInvalid
  else if n = 0 then .ok ⟨0, 1⟩
  else if n / (Int.gcd n d : Int) = MIN then .error .numeratorOverflow
  else .ok ⟨n / (Int.gcd n d : Int), d / (Int.gcd n d : Int)⟩

/-- QNEW (R121). -/
def execQnew (rd : QReg) (rs1 rs2 : GReg) (s : State) : Result :=
  finishRatio rd (reduce (sint64 (readG s rs1)) (sint64 (readG s rs2))) s

/-- QVALID (R122): the source is not checked first. -/
def execQvalid (rd : GReg) (rs1 : QReg) (s : State) : Result :=
  finishG rd (boolWord (readQ s rs1).valid) s

/-- QNUM (R123). -/
def execQnum (rd : GReg) (rs1 : QReg) (s : State) : Result :=
  checkQ (readQ s rs1) s fun _ => finishG rd (readQ s rs1).n s

/-- QDEN (R124). -/
def execQden (rd : GReg) (rs1 : QReg) (s : State) : Result :=
  checkQ (readQ s rs1) s fun x => finishG rd (word64 x.den) s

/-- QSGN (R125). -/
def execQsgn (rd : GReg) (rs1 : QReg) (s : State) : Result :=
  checkQ (readQ s rs1) s fun x => finishG rd (word64 x.num.sign) s

/-- QISZ (R126). -/
def execQisz (rd : GReg) (rs1 : QReg) (s : State) : Result :=
  checkQ (readQ s rs1) s fun x => finishG rd (boolWord (x.num == 0)) s

/-- QMOV (R127): the 128 bits are copied as they are, without a check. -/
def execQmov (rd rs1 : QReg) (s : State) : Result := finishQ rd (readQ s rs1) s

end Sys2Proof.Machine
end

