-- ==== Sys2Proof/Machine/Arith.lean ====
section
/-! DEFINITION. The arithmetic unit (42_arith.md): the narrow and wide addition paths, the multiplication and inverse
cores, and the commands. Magnitudes are naturals, signed values integers; nothing wraps (00_scope.md R13). -/

namespace Sys2Proof.Machine

/-- NB of 00_scope.md R9: the narrow bound 2^31 (90_conflicts.md C1). -/
def NB : Nat := 2 ^ 31

/-- `NarrowAdd` of R151. -/
def narrowAdd (x y : Ratio) : Bool :=
  decide (x.num.natAbs < NB) && decide (y.num.natAbs < NB) && decide (x.den < NB) && decide (y.den < NB)

/-- `AddNarrow` of R152. -/
def addNarrow (x y : Ratio) : Except ErrKind Ratio :=
  reduce (x.num * y.den + y.num * x.den) (x.den * y.den)

/-- A sign and a 128-bit magnitude. -/
structure SignMag where
  sign : Int
  mag : Nat
  deriving DecidableEq, Repr

/-- The six sign and magnitude cases of R153, for cross products p1 and p2 of numerators m1 and m2 that are not 0. -/
def combineCross (m1 m2 : Int) (p1 p2 : Nat) : SignMag :=
  if 0 < m1 ∧ 0 < m2 then ⟨1, p1 + p2⟩
  else if m1 < 0 ∧ m2 < 0 then ⟨-1, p1 + p2⟩
  else if 0 < m1 ∧ m2 < 0 ∧ p2 ≤ p1 then ⟨1, p1 - p2⟩
  else if 0 < m1 ∧ m2 < 0 then ⟨-1, p2 - p1⟩
  else if m1 < 0 ∧ 0 < m2 ∧ p2 ≤ p1 then ⟨-1, p1 - p2⟩
  else ⟨1, p2 - p1⟩

/-- The end of `AddWide` of R153: the exact divisions by gcd(n1, n2), the range tests (numerator first) and the final
reduction. -/
def addWideScaled (c : SignMag) (dd g : Nat) : Except ErrKind Ratio :=
  if 2 ^ 127 ≤ c.mag then .error .numeratorOverflow
  else if MAX < (c.mag / g : Nat) then .error .numeratorOverflow
  else if MAX < (dd / g : Nat) then .error .denominatorOverflow
  else reduce (c.sign * (c.mag / g : Nat)) (dd / g : Nat)

/-- `AddWide` of R153. -/
def addWide (x y : Ratio) : Except ErrKind Ratio :=
  if x.num = 0 then .ok y
  else if y.num = 0 then .ok x
  else
    addWideScaled
      (combineCross x.num y.num (x.num.natAbs * y.den.natAbs) (y.num.natAbs * x.den.natAbs))
      (x.den.natAbs * y.den.natAbs) (Int.gcd x.den y.den)

/-- The path choice of R154. -/
def addRatio (x y : Ratio) : Except ErrKind Ratio := if narrowAdd x y then addNarrow x y else addWide x y

/-- The negation of a pair (R155, R166). -/
def negRatio (x : Ratio) : Ratio := ⟨-x.num, x.den⟩

/-- R155: subtraction is addition of the negation of the second operand. -/
def subRatio (x y : Ratio) : Except ErrKind Ratio := addRatio x (negRatio y)

/-- The products of `MulCore` of R160 after cross-cancellation: narrow path, or wide path with its range tests
(numerator first). -/
def mulCancelled (s : Int) (a1 a2 n1 n2 : Nat) : Except ErrKind Ratio :=
  if a1 < NB ∧ a2 < NB ∧ n1 < NB ∧ n2 < NB then reduce (s * a1 * a2) (n1 * n2 : Nat)
  else if MAX < (a1 * a2 : Nat) then .error .numeratorOverflow
  else if MAX < (n1 * n2 : Nat) then .error .denominatorOverflow
  else reduce (s * (a1 * a2 : Nat)) (n1 * n2 : Nat)

/-- `MulCore` of R160. -/
def mulCore (x y : Ratio) : Except ErrKind Ratio :=
  if x.num = 0 ∨ y.num = 0 then .ok ⟨0, 1⟩
  else
    mulCancelled (x.num.sign * y.num.sign)
      (x.num.natAbs / Int.gcd x.num y.den) (y.num.natAbs / Int.gcd y.num x.den)
      (x.den.natAbs / Int.gcd y.num x.den) (y.den.natAbs / Int.gcd x.num y.den)

/-- `InvCore` of R162. -/
def invCore (x : Ratio) : Except ErrKind Ratio :=
  if x.num = 0 then .error .divisionByZero else .ok ⟨x.num.sign * x.den, x.num.natAbs⟩

/-- The rule of R164: the zero divisor first, then multiplication by the inverse. -/
def divRatio (x y : Ratio) : Except ErrKind Ratio :=
  match invCore y with
  | .ok i => mulCore x i
  | .error e => .error e

/-- The result of R168 for valid operands. -/
def cmpRatio (x y : Ratio) : Int := (x.num * y.den - y.num * x.den).sign

/-- QADD (R154). -/
def execQadd (rd rs1 rs2 : QReg) (s : State) : Result :=
  checkQQ (readQ s rs1) (readQ s rs2) s fun x y => finishRatio rd (addRatio x y) s

/-- QSUB (R155). -/
def execQsub (rd rs1 rs2 : QReg) (s : State) : Result :=
  checkQQ (readQ s rs1) (readQ s rs2) s fun x y => finishRatio rd (subRatio x y) s

/-- QMUL (R163). -/
def execQmul (rd rs1 rs2 : QReg) (s : State) : Result :=
  checkQQ (readQ s rs1) (readQ s rs2) s fun x y => finishRatio rd (mulCore x y) s

/-- QDIV (R164). -/
def execQdiv (rd rs1 rs2 : QReg) (s : State) : Result :=
  checkQQ (readQ s rs1) (readQ s rs2) s fun x y => finishRatio rd (divRatio x y) s

/-- QINV (R165). -/
def execQinv (rd rs1 : QReg) (s : State) : Result :=
  checkQ (readQ s rs1) s fun x => finishRatio rd (invCore x) s

/-- QNEG (R166). -/
def execQneg (rd rs1 : QReg) (s : State) : Result :=
  checkQ (readQ s rs1) s fun x => finishQ rd (storeRatio (negRatio x)) s

/-- QABS (R167). -/
def execQabs (rd rs1 : QReg) (s : State) : Result :=
  checkQ (readQ s rs1) s fun x => finishQ rd (storeRatio ⟨x.num.natAbs, x.den⟩) s

/-- QCMP (R168). -/
def execQcmp (rd : GReg) (rs1 rs2 : QReg) (s : State) : Result :=
  checkQQ (readQ s rs1) (readQ s rs2) s fun x y => finishG rd (word64 (cmpRatio x y)) s

end Sys2Proof.Machine
end

