-- ==== Sys2Proof/Machine/Binary64.lean ====
section
/-! DEFINITION. The binary64 values the converter computes with (00_scope.md R18): rounding to nearest with ties to
even, `f64_of_int`, `f64_div` and `bits`. Layout and rounding rule: R18 (log 9). -/

namespace Sys2Proof.Machine

/-- A finite binary64 value (−1)^neg · sig · 2^exp. It is zero (sig = 0), or normal with 2^52 ≤ sig < 2^53; the
converter meets no other value (43_convert.md R200; log 9). -/
structure F64 where
  neg : Bool
  sig : Nat
  exp : Int
  deriving DecidableEq, Repr

/-- +0.0. -/
def f64Zero : F64 := ⟨false, 0, 0⟩

/-- Numerator and denominator of the exact quotient a/(b·2^e). -/
def scaleBy (a b : Nat) (e : Int) : Nat × Nat := (a * 2 ^ (-e).toNat, b * 2 ^ e.toNat)

/-- The exponent e with 2^52 ≤ a/(b·2^e) < 2^53, for a and b not 0: the estimate from the bit lengths is right or one
too small. -/
def sigExp (a b : Nat) : Int :=
  let e : Int := (bitlen a : Int) - (bitlen b : Int) - 53
  let c := scaleBy a b e
  if c.1 < 2 ^ 53 * c.2 then e else e + 1

/-- The integer nearest to a/b, ties to the even one (R18). -/
def divNearestEven (a b : Nat) : Nat :=
  let q := a / b
  let r := a % b
  if 2 * r < b then q
  else if b < 2 * r then q + 1
  else if q % 2 = 0 then q else q + 1

/-- The binary64 value nearest to ±a/b, ties to the even significand (R18). A significand that rounds up to 2^53 is
2^52 with the next exponent. Zero is +0.0. -/
def roundQuotient (neg : Bool) (a b : Nat) : F64 :=
  if a = 0 then f64Zero
  else
    let e := sigExp a b
    let c := scaleBy a b e
    let m := divNearestEven c.1 c.2
    if m = 2 ^ 53 then ⟨neg, 2 ^ 52, e + 1⟩ else ⟨neg, m, e⟩

/-- `f64_of_int(i)` of R18. -/
def f64OfInt (i : Int) : F64 := roundQuotient (decide (i < 0)) i.natAbs 1

/-- `f64_div(a, b)` of R18, for b not zero: the exact quotient of the two values, rounded. -/
def f64Div (a b : F64) : F64 :=
  let c := scaleBy a.sig b.sig (b.exp - a.exp)
  roundQuotient (a.neg != b.neg) c.1 c.2

/-- `bits(f)` of R18: sign in bit 63, biased exponent in bits 62:52, fraction in bits 51:0. -/
def f64Bits (f : F64) : Word :=
  if f.sig = 0 then BitVec.ofBool f.neg ++ 0#11 ++ 0#52
  else BitVec.ofBool f.neg ++ BitVec.ofInt 11 (f.exp + 1075) ++ BitVec.ofNat 52 (f.sig - 2 ^ 52)

end Sys2Proof.Machine
end

