-- ==== Sys2Proof/Machine/Convert.lean ====
section
/-! DEFINITION. The IEEE-754 double converter (43_convert.md): Q2F with its exactness flag, and F2Q. -/

namespace Sys2Proof.Machine

/-- `ToF64(m, n)` of R200: numerator and denominator are converted to double, then divided. -/
def toF64 (x : Ratio) : F64 := f64Div (f64OfInt x.num) (f64OfInt x.den)

/-- `Exact(m, n)` of R201. -/
def exactFlag (x : Ratio) : Bool :=
  if x.num = 0 then true
  else if x.den = 1 then decide (bitlen x.num.natAbs ≤ 53)
  else decide (bitlen x.num.natAbs ≤ 53) && isPow2 x.den.toNat

/-- The number of trailing zero bits of a nonzero number below 2^fuel (R203). -/
def trailingZeros : Nat → Nat → Nat
  | 0, _ => 0
  | fuel + 1, m => if m % 2 = 1 then 0 else trailingZeros fuel (m / 2) + 1

/-- A sign bit in front of a magnitude. -/
def applySign (neg : Bool) (i : Int) : Int := if neg then -i else i

/-- The result of R204 for the value (−1)^neg · M · 2^E with M odd. -/
def fromOdd (neg : Bool) (m : Nat) (e : Int) : Except ErrKind Ratio :=
  if 0 ≤ e then
    if 63 < (bitlen m : Int) + e then .error .numeratorOverflow
    else .ok ⟨applySign neg (m * 2 ^ e.toNat), 1⟩
  else if 63 ≤ -e then .error .denominatorOverflow
  else .ok ⟨applySign neg m, 2 ^ (-e).toNat⟩

/-- R203 for the nonzero finite value (−1)^neg · m0 · 2^e0: strip the trailing zeros. -/
def fromParts (neg : Bool) (m0 : Nat) (e0 : Int) : Except ErrKind Ratio :=
  fromOdd neg (m0 / 2 ^ trailingZeros 53 m0) (e0 + trailingZeros 53 m0)

/-- The exponent field of a binary64 word (R203). -/
def f64Exp (w : Word) : Nat := (w.extractLsb' 52 11).toNat

/-- The fraction field of a binary64 word (R203). -/
def f64Frac (w : Word) : Nat := (w.extractLsb' 0 52).toNat

/-- `FromF64(w)` of R203 and R204. -/
def fromF64 (w : Word) : Except ErrKind Ratio :=
  if f64Exp w = 0x7FF then
    if f64Frac w = 0 then .error .numeratorOverflow else .error .operandInvalid
  else if f64Exp w = 0 then
    if f64Frac w = 0 then .ok ⟨0, 1⟩ else fromParts (w.getLsbD 63) (f64Frac w) (-1074)
  else fromParts (w.getLsbD 63) (2 ^ 52 + f64Frac w) ((f64Exp w : Int) - 1075)

/-- The state with `STATUS.EXACT <- b` (10_state.md R40). -/
def writeExact (s : State) (b : Bool) : State := { s with status := withExact s.status b }

/-- Q2F (R202). -/
def execQ2f (rd : GReg) (rs1 : QReg) (s : State) : Result :=
  checkQ (readQ s rs1) s fun x => finish (writeExact (writeG s rd (f64Bits (toF64 x))) (exactFlag x))

/-- F2Q (R205). -/
def execF2q (rd : QReg) (rs1 : GReg) (s : State) : Result := finishRatio rd (fromF64 (readG s rs1)) s

end Sys2Proof.Machine
end

