-- ==== Sys2Proof/WellFormed.lean ====
section
/-! DEFINITION. What a command must satisfy beyond its operand types: 30_encoding.md R87 condition 5. -/

namespace Sys2Proof

/-- R87 condition 5: XGCD's RD, RD2 and RD3 are three different indices. The other conditions of R87 are about
bits that `Instr` does not hold; the decoder checks them. -/
def distinctDests (rd rd2 rd3 : GReg) : Bool := rd != rd2 && rd != rd3 && rd2 != rd3

/-- A well-formed command. -/
def wellFormed : Instr → Bool
  | .xgcd rd _ _ rd2 rd3 => distinctDests rd rd2 rd3
  | .nop => true
  | .gcd _ _ _ => true
  | .qnew _ _ _ => true
  | .qvalid _ _ => true
  | .qnum _ _ => true
  | .qden _ _ => true
  | .qsgn _ _ => true
  | .qisz _ _ => true
  | .qmov _ _ => true
  | .qadd _ _ _ => true
  | .qsub _ _ _ => true
  | .qmul _ _ _ => true
  | .qdiv _ _ _ => true
  | .qinv _ _ => true
  | .qneg _ _ => true
  | .qabs _ _ => true
  | .qcmp _ _ _ => true
  | .q2f _ _ => true
  | .f2q _ _ => true

end Sys2Proof
end

