-- ==== Sys2Proof/Machine/Gcd.lean ====
section
/-! DEFINITION. The extended GCD engine (40_gcd.md): the loop of R100 and the commands XGCD and GCD. -/

namespace Sys2Proof.Machine

/-- The result (a, b, d) of R100. -/
structure Bezout where
  a : Int
  b : Int
  d : Int
  deriving DecidableEq, Repr

/-- The loop variables of R100. -/
structure GcdVars where
  r0 : Int
  r1 : Int
  s0 : Int
  s1 : Int
  t0 : Int
  t1 : Int
  deriving DecidableEq, Repr

/-- One turn of the loop of R100, with the quotient truncated toward zero. -/
def gcdTurn (v : GcdVars) : GcdVars :=
  let q := Int.tdiv v.r0 v.r1
  ⟨v.r1, v.r0 - q * v.r1, v.s1, v.s0 - q * v.s1, v.t1, v.t0 - q * v.t1⟩

/-- The loop `while r1 != 0` of R100. abs(r1) strictly decreases, so abs(r1) turns are always enough (log 11). -/
def gcdLoop : Nat → GcdVars → GcdVars
  | 0, v => v
  | fuel + 1, v => if v.r1 = 0 then v else gcdLoop fuel (gcdTurn v)

/-- `XGCD_f(m, n)` of R100. -/
def xgcdF (m n : Int) : Bezout :=
  let v := gcdLoop n.natAbs ⟨m, n, 1, 0, 0, 1⟩
  if v.r0 < 0 then ⟨-v.s0, -v.t0, -v.r0⟩ else ⟨v.s0, v.t0, v.r0⟩

/-- The inputs XGCD and GCD accept (R102, R103): neither is −2^63. -/
def gcdInputsOk (m n : Int) : Bool := m != MIN && n != MIN

/-- XGCD (R102). A term with equal destinations is no legal command (30_encoding.md R87 condition 5; log 8). -/
def execXgcd (rd rs1 rs2 rd2 rd3 : GReg) (s : State) : Result :=
  let m := sint64 (readG s rs1)
  let n := sint64 (readG s rs2)
  if distinctDests rd rd2 rd3 then
    if gcdInputsOk m n then
      let r := xgcdF m n
      finish (writeG (writeG (writeG s rd (word64 r.d)) rd2 (word64 r.a)) rd3 (word64 r.b))
    else raise .operandInvalid s
  else raise .illegalCommand s

/-- GCD (R103). -/
def execGcd (rd rs1 rs2 : GReg) (s : State) : Result :=
  let m := sint64 (readG s rs1)
  let n := sint64 (readG s rs2)
  if gcdInputsOk m n then finishG rd (word64 (xgcdF m n).d) s else raise .operandInvalid s

end Sys2Proof.Machine
end

