-- ==== Sys2Proof/Machine/System.lean ====
section
/-! DEFINITION. The system command (44_system.md). -/

namespace Sys2Proof.Machine

/-- NOP (R230): ERR <- 0; EXACT and ESTICKY unchanged. -/
def execNop (s : State) : Result := finish s

end Sys2Proof.Machine
end

