-- ==== Sys2Proof/Machine/Dispatch.lean ====
section
/-! DEFINITION. One arm per command of 30_encoding.md R86. -/

namespace Sys2Proof.Machine

open Sys2Proof

-- The meaning of a command: everything Execute of R90 does once the command is known to be Legal.
def exec (i : Instr) (s : State) : Host.Outcome State Fault Refusal :=
  match i with
  | .nop => Sys2Proof.Machine.execNop s
  | .xgcd rd rs1 rs2 rd2 rd3 => Sys2Proof.Machine.execXgcd rd rs1 rs2 rd2 rd3 s
  | .gcd rd rs1 rs2 => Sys2Proof.Machine.execGcd rd rs1 rs2 s
  | .qnew rd rs1 rs2 => Sys2Proof.Machine.execQnew rd rs1 rs2 s
  | .qvalid rd rs1 => Sys2Proof.Machine.execQvalid rd rs1 s
  | .qnum rd rs1 => Sys2Proof.Machine.execQnum rd rs1 s
  | .qden rd rs1 => Sys2Proof.Machine.execQden rd rs1 s
  | .qsgn rd rs1 => Sys2Proof.Machine.execQsgn rd rs1 s
  | .qisz rd rs1 => Sys2Proof.Machine.execQisz rd rs1 s
  | .qmov rd rs1 => Sys2Proof.Machine.execQmov rd rs1 s
  | .qadd rd rs1 rs2 => Sys2Proof.Machine.execQadd rd rs1 rs2 s
  | .qsub rd rs1 rs2 => Sys2Proof.Machine.execQsub rd rs1 rs2 s
  | .qmul rd rs1 rs2 => Sys2Proof.Machine.execQmul rd rs1 rs2 s
  | .qdiv rd rs1 rs2 => Sys2Proof.Machine.execQdiv rd rs1 rs2 s
  | .qinv rd rs1 => Sys2Proof.Machine.execQinv rd rs1 s
  | .qneg rd rs1 => Sys2Proof.Machine.execQneg rd rs1 s
  | .qabs rd rs1 => Sys2Proof.Machine.execQabs rd rs1 s
  | .qcmp rd rs1 rs2 => Sys2Proof.Machine.execQcmp rd rs1 rs2 s
  | .q2f rd rs1 => Sys2Proof.Machine.execQ2f rd rs1 s
  | .f2q rd rs1 => Sys2Proof.Machine.execF2q rd rs1 s

end Sys2Proof.Machine
end

