-- ==== Sys2Proof/Decode.lean ====
section
/-! DEFINITION. Format C32 (30_encoding.md R80, R81): the decoder, total on every 64-bit CMD value and rejecting by
name, and the encoder. -/

namespace Sys2Proof

/-- Why a CMD value is not Legal (R87). Every reason is reported as ILLEGAL_COMMAND (R87, R88). -/
inductive Illegal where
  /-- Condition 1: v[63:32] is not 0. -/
  | highHalf
  /-- Condition 2: OPC is unassigned (R88). -/
  | unassignedOpcode (opc : BitVec 8)
  /-- Condition 3: a reserved bit of R81 is 1. -/
  | reservedBit
  /-- Condition 4: a field the opcode does not use is not 0. -/
  | unusedField
  /-- Condition 5: XGCD's destinations are not three different indices. -/
  | equalDestinations
  deriving DecidableEq, Repr

/-- The fields of a command word (R81); OPC is kept apart. -/
structure Fields where
  rd : BitVec 3
  rs1 : BitVec 3
  rs2 : BitVec 3
  rd2 : BitVec 3
  rd3 : BitVec 3
  deriving DecidableEq, Repr

/-- OPC, bits 7:0. -/
def opcOf (v : BitVec 64) : BitVec 8 := v.extractLsb' 0 8

/-- The register fields of R81. -/
def fieldsOf (v : BitVec 64) : Fields where
  rd := v.extractLsb' 8 3
  rs1 := v.extractLsb' 12 3
  rs2 := v.extractLsb' 16 3
  rd2 := v.extractLsb' 20 3
  rd3 := v.extractLsb' 24 3

/-- R87 condition 3: bits 11, 15, 19, 23 and 31:27 are 0. -/
def reservedClear (v : BitVec 64) : Bool :=
  !v.getLsbD 11 && !v.getLsbD 15 && !v.getLsbD 19 && !v.getLsbD 23 && v.extractLsb' 27 5 == 0#5

/-- A 3-bit field as a register index (R82). -/
def regOf (f : BitVec 3) : Fin 8 := f.toFin

/-- A row of R86 with no operand. -/
def noOperands (f : Fields) (i : Instr) : Except Illegal Instr :=
  if f = ⟨0, 0, 0, 0, 0⟩ then .ok i else .error .unusedField

/-- A row of R86 with RD and RS1 only. -/
def twoOperands (f : Fields) (i : Fin 8 → Fin 8 → Instr) : Except Illegal Instr :=
  if f.rs2 = 0 ∧ f.rd2 = 0 ∧ f.rd3 = 0 then .ok (i (regOf f.rd) (regOf f.rs1)) else .error .unusedField

/-- A row of R86 with RD, RS1 and RS2 only. -/
def threeOperands (f : Fields) (i : Fin 8 → Fin 8 → Fin 8 → Instr) : Except Illegal Instr :=
  if f.rd2 = 0 ∧ f.rd3 = 0 then .ok (i (regOf f.rd) (regOf f.rs1) (regOf f.rs2)) else .error .unusedField

/-- The XGCD row of R86, with all five fields and R87 condition 5. -/
def xgcdOperands (f : Fields) : Except Illegal Instr :=
  if distinctDests (regOf f.rd) (regOf f.rd2) (regOf f.rd3) then
    .ok (.xgcd (regOf f.rd) (regOf f.rs1) (regOf f.rs2) (regOf f.rd2) (regOf f.rd3))
  else .error .equalDestinations

/-- The opcode map of R86; every other OPC is unassigned (R88). -/
def decodeRow (opc : BitVec 8) (f : Fields) : Except Illegal Instr :=
  match opc with
  | 0x00#8 => noOperands f .nop
  | 0x01#8 => xgcdOperands f
  | 0x02#8 => threeOperands f .gcd
  | 0x10#8 => threeOperands f .qnew
  | 0x11#8 => twoOperands f .qvalid
  | 0x12#8 => twoOperands f .qnum
  | 0x13#8 => twoOperands f .qden
  | 0x14#8 => twoOperands f .qsgn
  | 0x15#8 => twoOperands f .qisz
  | 0x16#8 => twoOperands f .qmov
  | 0x20#8 => threeOperands f .qadd
  | 0x21#8 => threeOperands f .qsub
  | 0x22#8 => threeOperands f .qmul
  | 0x23#8 => threeOperands f .qdiv
  | 0x24#8 => twoOperands f .qinv
  | 0x25#8 => twoOperands f .qneg
  | 0x26#8 => twoOperands f .qabs
  | 0x27#8 => threeOperands f .qcmp
  | 0x30#8 => twoOperands f .q2f
  | 0x31#8 => twoOperands f .f2q
  | _ => .error (.unassignedOpcode opc)

/-- The decoder: the command a CMD value stands for, or the reason it is not Legal (R87). -/
def decode (v : BitVec 64) : Except Illegal Instr :=
  if v.extractLsb' 32 32 ≠ 0#32 then .error .highHalf
  else if reservedClear v then decodeRow (opcOf v) (fieldsOf v)
  else .error .reservedBit

/-- A row of the opcode table (R86): a command word c belongs to it when c & mask = bits (R87). -/
structure OpcodeRow where
  mask : BitVec 32
  bits : BitVec 32
  deriving DecidableEq, Repr

/-- The mask and match of each row, in the table's order (R86). -/
def opcodeTable : List OpcodeRow := [
  ⟨0xFFFFFFFF#32, 0x00000000#32⟩,
  ⟨0xF88888FF#32, 0x00000001#32⟩,
  ⟨0xFFF888FF#32, 0x00000002#32⟩,
  ⟨0xFFF888FF#32, 0x00000010#32⟩,
  ⟨0xFFFF88FF#32, 0x00000011#32⟩,
  ⟨0xFFFF88FF#32, 0x00000012#32⟩,
  ⟨0xFFFF88FF#32, 0x00000013#32⟩,
  ⟨0xFFFF88FF#32, 0x00000014#32⟩,
  ⟨0xFFFF88FF#32, 0x00000015#32⟩,
  ⟨0xFFFF88FF#32, 0x00000016#32⟩,
  ⟨0xFFF888FF#32, 0x00000020#32⟩,
  ⟨0xFFF888FF#32, 0x00000021#32⟩,
  ⟨0xFFF888FF#32, 0x00000022#32⟩,
  ⟨0xFFF888FF#32, 0x00000023#32⟩,
  ⟨0xFFFF88FF#32, 0x00000024#32⟩,
  ⟨0xFFFF88FF#32, 0x00000025#32⟩,
  ⟨0xFFFF88FF#32, 0x00000026#32⟩,
  ⟨0xFFF888FF#32, 0x00000027#32⟩,
  ⟨0xFFFF88FF#32, 0x00000030#32⟩,
  ⟨0xFFFF88FF#32, 0x00000031#32⟩]

/-- Does the command word belong to the row? -/
def OpcodeRow.holds (r : OpcodeRow) (c : BitVec 32) : Bool := c &&& r.mask == r.bits

/-- `Legal(v)` of R87. -/
def legal (v : BitVec 64) : Bool := (decode v).toBool

/-- R81: c = OPC | RD<<8 | RS1<<12 | RS2<<16 | RD2<<20 | RD3<<24, with CMD[63:32] = 0. -/
def commandWord (opc : BitVec 8) (rd rs1 rs2 rd2 rd3 : Fin 8) : BitVec 64 :=
  BitVec.setWidth 64 opc ||| BitVec.ofNat 64 rd <<< 8 ||| BitVec.ofNat 64 rs1 <<< 12 |||
    BitVec.ofNat 64 rs2 <<< 16 ||| BitVec.ofNat 64 rd2 <<< 20 ||| BitVec.ofNat 64 rd3 <<< 24

/-- The encoder: the CMD value of a command (R81, R86); unused fields are 0. -/
def encode : Instr → BitVec 64
  | .nop => commandWord 0x00 0 0 0 0 0
  | .xgcd rd rs1 rs2 rd2 rd3 => commandWord 0x01 rd rs1 rs2 rd2 rd3
  | .gcd rd rs1 rs2 => commandWord 0x02 rd rs1 rs2 0 0
  | .qnew rd rs1 rs2 => commandWord 0x10 rd rs1 rs2 0 0
  | .qvalid rd rs1 => commandWord 0x11 rd rs1 0 0 0
  | .qnum rd rs1 => commandWord 0x12 rd rs1 0 0 0
  | .qden rd rs1 => commandWord 0x13 rd rs1 0 0 0
  | .qsgn rd rs1 => commandWord 0x14 rd rs1 0 0 0
  | .qisz rd rs1 => commandWord 0x15 rd rs1 0 0 0
  | .qmov rd rs1 => commandWord 0x16 rd rs1 0 0 0
  | .qadd rd rs1 rs2 => commandWord 0x20 rd rs1 rs2 0 0
  | .qsub rd rs1 rs2 => commandWord 0x21 rd rs1 rs2 0 0
  | .qmul rd rs1 rs2 => commandWord 0x22 rd rs1 rs2 0 0
  | .qdiv rd rs1 rs2 => commandWord 0x23 rd rs1 rs2 0 0
  | .qinv rd rs1 => commandWord 0x24 rd rs1 0 0 0
  | .qneg rd rs1 => commandWord 0x25 rd rs1 0 0 0
  | .qabs rd rs1 => commandWord 0x26 rd rs1 0 0 0
  | .qcmp rd rs1 rs2 => commandWord 0x27 rd rs1 rs2 0 0
  | .q2f rd rs1 => commandWord 0x30 rd rs1 0 0 0
  | .f2q rd rs1 => commandWord 0x31 rd rs1 0 0 0

/-- A G operand in the assembler syntax (R89): g0 to g7. -/
def asmG (r : GReg) : String := "g" ++ Nat.repr r.val

/-- A Q operand in the assembler syntax (R89): q0 to q7. -/
def asmQ (r : QReg) : String := "q" ++ Nat.repr r.val

/-- `MNEMONIC op1, op2, ...` (R89). -/
def asmLine (mnemonic : String) (ops : List String) : String :=
  if ops = [] then mnemonic else mnemonic ++ " " ++ String.intercalate ", " ops

/-- A command in the assembler syntax of R89: operands in the order RD, RS1, RS2, RD2, RD3, unused fields left out. -/
def asm : Instr → String
  | .nop => asmLine "NOP" []
  | .xgcd rd rs1 rs2 rd2 rd3 => asmLine "XGCD" [asmG rd, asmG rs1, asmG rs2, asmG rd2, asmG rd3]
  | .gcd rd rs1 rs2 => asmLine "GCD" [asmG rd, asmG rs1, asmG rs2]
  | .qnew rd rs1 rs2 => asmLine "QNEW" [asmQ rd, asmG rs1, asmG rs2]
  | .qvalid rd rs1 => asmLine "QVALID" [asmG rd, asmQ rs1]
  | .qnum rd rs1 => asmLine "QNUM" [asmG rd, asmQ rs1]
  | .qden rd rs1 => asmLine "QDEN" [asmG rd, asmQ rs1]
  | .qsgn rd rs1 => asmLine "QSGN" [asmG rd, asmQ rs1]
  | .qisz rd rs1 => asmLine "QISZ" [asmG rd, asmQ rs1]
  | .qmov rd rs1 => asmLine "QMOV" [asmQ rd, asmQ rs1]
  | .qadd rd rs1 rs2 => asmLine "QADD" [asmQ rd, asmQ rs1, asmQ rs2]
  | .qsub rd rs1 rs2 => asmLine "QSUB" [asmQ rd, asmQ rs1, asmQ rs2]
  | .qmul rd rs1 rs2 => asmLine "QMUL" [asmQ rd, asmQ rs1, asmQ rs2]
  | .qdiv rd rs1 rs2 => asmLine "QDIV" [asmQ rd, asmQ rs1, asmQ rs2]
  | .qinv rd rs1 => asmLine "QINV" [asmQ rd, asmQ rs1]
  | .qneg rd rs1 => asmLine "QNEG" [asmQ rd, asmQ rs1]
  | .qabs rd rs1 => asmLine "QABS" [asmQ rd, asmQ rs1]
  | .qcmp rd rs1 rs2 => asmLine "QCMP" [asmG rd, asmQ rs1, asmQ rs2]
  | .q2f rd rs1 => asmLine "Q2F" [asmG rd, asmQ rs1]
  | .f2q rd rs1 => asmLine "F2Q" [asmQ rd, asmG rs1]

/-- An instruction as the opcode table numbers its bits: the `nbits` low bits of `w`, every bit above them 0. None
if it does not fit the 64 bits of a CMD value (30_encoding.md R80). -/
def tableWord (nbits w : Nat) : Option (BitVec 64) :=
  if w % 2 ^ nbits < 2 ^ 64 then some (BitVec.ofNat 64 (w % 2 ^ nbits)) else none

/-- The command the decoder reads from a word of the opcode table. -/
def decodeTableWord (nbits w : Nat) : Option Instr :=
  match tableWord nbits w with
  | some v => (decode v).toOption
  | none => none

end Sys2Proof
end

