-- ==== Sys2Proof/Machine/Port.lean ====
section
/-! DEFINITION. The register port (20_memory.md): the register map, admitted accesses, reads, writes, byte lanes, and
the start of a command by a write to CMD. -/

namespace Sys2Proof.Machine

/-- The registers of the map of R62. -/
inductive PortReg where
  | g (i : GReg)
  | qn (i : QReg)
  | qdb (i : QReg)
  | cmd
  | status
  /-- The offsets 0xD0 to 0xF8. -/
  | reserved
  deriving DecidableEq, Repr

/-- The register at a byte offset (R62); none where an access is not admitted (R61, R64). -/
def portReg (off : Nat) : Option PortReg :=
  if off % 8 ≠ 0 ∨ 0xFF < off then none
  else if off < 0x40 then some (.g (Fin.ofNat 8 (off / 8)))
  else if off < 0xC0 then
    if off % 16 = 0 then some (.qn (Fin.ofNat 8 ((off - 0x40) / 16)))
    else some (.qdb (Fin.ofNat 8 ((off - 0x40) / 16)))
  else if off = 0xC0 then some .cmd
  else if off = 0xC8 then some .status
  else some .reserved

/-- The register an access reaches; none if it is not an admitted access, that is 64 bits wide, aligned to 8 and
inside the window (R61, R64). -/
def admittedReg (a : HostAccess) : Option PortReg := if a.bytes = 8 then portReg a.off else none

/-- `MemRead(off, 8)` (R62): the word a host read returns. Reads have no side effects (R65). -/
def readPort (s : State) : PortReg → Word
  | .g i => readG s i
  | .qn i => (readQ s i).n
  | .qdb i => (readQ s i).db
  | .cmd => s.cmd
  | .status => s.status
  | .reserved => 0

/-- The operands of LATENCY for a CMD value (00_scope.md R11): the words of the source registers, or none if it is
not Legal (log 3). -/
def commandWords (v : Word) (s : State) : List Word :=
  match decode v with
  | .ok i => sourceWords i s
  | .error _ => []

/-- The start of a command (10_state.md R41, R43): CMD holds v, BUSY is 1, and the engine executes for LATENCY cycles,
the last of which completes the command. -/
def startCommand (v : Word) (s : State) : State :=
  { s with
    cmd := v
    status := withBusy s.status true
    engine := .executing (Config.extraCycles v (commandWords v s)) }

/-- `MemWrite(off, 8, v)` (R62). G and Q take v exactly, valid or not (10_state.md R37). -/
def writePort (r : PortReg) (v : Word) (s : State) : State :=
  match r with
  | .g i => writeG s i v
  | .qn i => writeQ s i { readQ s i with n := v }
  | .qdb i => writeQ s i { readQ s i with db := v }
  | .cmd => startCommand v s
  | .status => { s with status := statusAfterHostWrite s.status v }
  | .reserved => s

/-- What a host read of `w` leaves: the word is the next one returned (log 2). -/
def returnWord (w : Word) (s : State) : State := { s with returned := s.returned ++ [w] }

/-- One access performed by the port (R62, R64, R65): an access that is not admitted stops the host (log 5). -/
def performAccess (a : HostAccess) (s : State) : Result :=
  match admittedReg a with
  | none => .fault (.accessNotAdmitted a)
  | some r =>
    match a.kind with
    | .read => .next (returnWord (readPort s r) s)
    | .write v => .next (writePort r v s)

/-- A read of STATUS, the one access the port performs while BUSY = 1 (R66). -/
def isStatusRead (a : HostAccess) : Bool := admittedReg a == some .status && a.kind == .read

/-- The byte at byte offset `a` of the window (R63, little-endian lanes): bits 8k+7 to 8k of the register whose offset
is `a` rounded down to a multiple of 8, with k = a mod 8. -/
def portByte (s : State) (a : Nat) : Option Byte :=
  (portReg (a - a % 8)).map fun r => (readPort s r).extractLsb' (8 * (a % 8)) 8

/-- The byte at a host address (R61, R63): none outside the window. -/
def hostByte (s : State) (addr : Nat) : Option Byte :=
  if Config.portBase ≤ addr ∧ addr < Config.portBase + 256 then portByte s (addr - Config.portBase) else none

/-- The host access at a host address (R61: offset `off` is at PORT_BASE + off); none below the window, where no
offset of the block lies. -/
def accessAt (addr bytes : Nat) (kind : AccessKind) : Option HostAccess :=
  if Config.portBase ≤ addr then some ⟨addr - Config.portBase, bytes, kind⟩ else none

end Sys2Proof.Machine
end

