-- ==== Sys2Proof/Machine/Engine.lean ====
section
/-! DEFINITION. The cycle of the engine and the port (10_state.md R41, 20_memory.md R66, R67,
70_reset_and_hazards.md R270, R275): what happens in a cycle with the engine idle, waiting, or completing, and in a
cycle with reset asserted. -/

namespace Sys2Proof.Machine

/-- Does the platform assert reset in this cycle? -/
def resetAsserted (s : State) : Bool :=
  match s.inputs with
  | .reset :: _ => true
  | _ => false

/-- A cycle with reset asserted (70_reset_and_hazards.md R270): every piece of state takes its value of 10_state.md
R46 and a command in execution is abandoned. The model's own two lists go on (log 7). -/
def resetCycle (s : State) : State := { State.reset with inputs := s.inputs.tail, returned := s.returned }

/-- A cycle with the engine idle: the port performs the access the host presents, if any (20_memory.md R67). -/
def idleCycle (s : State) : Result :=
  match s.inputs with
  | .access a :: rest => performAccess a { s with inputs := rest }
  | _ => .next { s with inputs := s.inputs.tail }

/-- The port's part of a cycle in which a command executes: a read of STATUS is performed at once and returns STATUS as
it stands, every other access is held (20_memory.md R66, 70_reset_and_hazards.md R275). DESIGN CHOICE: an access that is
not admitted is held too (log 5). DESIGN CHOICE: a held access keeps the head of the list, so a reset entry behind it
waits until that access is performed; the spec does not say what becomes of a held access at reset (log 7). -/
def busyPort (s : State) : State :=
  match s.inputs with
  | .access a :: rest => if isStatusRead a then { returnWord s.status s with inputs := rest } else s
  | _ => { s with inputs := s.inputs.tail }

/-- A cycle in which the engine executes and is not ready, with `n` more to go (10_state.md R41; log 1). DESIGN CHOICE:
a reset entry behind an access that is held here does not abandon the command (log 7). -/
def waitCycle (n : Nat) (s : State) : State := { busyPort s with engine := .executing n }

/-- The CMD value of the command in execution (20_memory.md R70: it is the value the host wrote). -/
def fetchCommand (s : State) : Word := s.cmd

/-- The cycle in which the command in execution completes: BUSY is still 1 when it begins, so the port does its part as
in every cycle of an executing command (20_memory.md R66), and then `Execute(v)` of 30_encoding.md R90 ends. -/
def completeCycle (s : State) : Result :=
  match decode (fetchCommand s) with
  | .ok i => exec i (busyPort s)
  | .error _ => raise .illegalCommand (busyPort s)

/-- The state in which the command `v` is in execution and completes in the next cycle: CMD holds it, BUSY is 1, and
reset is not asserted (log 10). -/
def placeCommand (v : Word) (s : State) : State :=
  { s with
    cmd := v
    status := withBusy s.status true
    engine := .executing 0
    inputs := s.inputs.dropWhile (· == .reset) }

end Sys2Proof.Machine
end

