-- ==== Sys2Proof/Machine/Step.lean ====
section
/-! DEFINITION. One step of the machine: one cycle of the engine and the port (log 1). -/

namespace Sys2Proof.Machine

/-- One cycle (log 1). Reset comes first; then the engine's state says what the cycle does. -/
def step (s : State) : Host.Outcome State Fault Refusal :=
  if resetAsserted s then .next (resetCycle s)
  else
    match s.engine with
    | .idle => idleCycle s
    | .executing (n + 1) => .next (waitCycle n s)
    | .executing 0 => completeCycle s

/-- `s` with the instruction of the opcode table's word `w` in execution, so that the very next step runs it (log 10). -/
def State.withFetchWord (s : State) (nbits w : Nat) : State :=
  match tableWord nbits w with
  | some v => placeCommand v s
  | none => s

end Sys2Proof.Machine
end

