-- ==== Sys2Proof/Safety.lean ====
section
/-! DEFINITION. The terms claims about the rat128 CORE are made in: how a command ends, seen field by field; the value
of a register as a rational number; what a host must not do; and the invariants of STATUS and of the Q file. -/

namespace Sys2Proof.Machine

/-- `t` is `s` after a command that completed without error (30_encoding.md R90, R93): G and Q hold `g` and `q`, EXACT
is `exact`, ERR and BUSY are 0, and nothing else has changed. -/
structure Done (s t : State) (g : Vector Word 8) (q : Vector RatReg 8) (exact : Bool) : Prop where
  g_eq : t.g = g
  q_eq : t.q = q
  err : statusErr t.status = 0
  exact_eq : statusExact t.status = exact
  busy : statusBusy t.status = false
  sticky : statusSticky t.status = statusSticky s.status
  reserved : statusReserved t.status = statusReserved s.status
  cmd : t.cmd = s.cmd
  engine : t.engine = .idle
  inputs : t.inputs = s.inputs
  returned : t.returned = s.returned

/-- `t` is `s` after a command that reported `e` (60_exceptions.md R243): ERR is its code, ESTICKY is 1, BUSY is 0,
and nothing else has changed. -/
structure Failed (s t : State) (e : ErrKind) : Prop where
  g_eq : t.g = s.g
  q_eq : t.q = s.q
  err : statusErr t.status = errCode e
  exact_eq : statusExact t.status = statusExact s.status
  busy : statusBusy t.status = false
  sticky : statusSticky t.status = true
  reserved : statusReserved t.status = statusReserved s.status
  cmd : t.cmd = s.cmd
  engine : t.engine = .idle
  inputs : t.inputs = s.inputs
  returned : t.returned = s.returned

/-- The command answers a next state and has completed without error, leaving `g`, `q` and `exact`. -/
def Finishes (i : Instr) (s : State) (g : Vector Word 8) (q : Vector RatReg 8) (exact : Bool) : Prop :=
  ∃ t, exec i s = .next t ∧ Done s t g q exact

/-- The command completes without error and changes no register but `G[rd]`, which receives `v`. -/
def FinishesG (i : Instr) (s : State) (rd : GReg) (v : Word) : Prop :=
  Finishes i s (s.g.set rd v) s.q (statusExact s.status)

/-- The command completes without error and changes no register but `Q[rd]`, which receives `x`. -/
def FinishesQ (i : Instr) (s : State) (rd : QReg) (x : RatReg) : Prop :=
  Finishes i s s.g (s.q.set rd x) (statusExact s.status)

/-- The command answers a next state and has reported `e`. -/
def Reports (i : Instr) (s : State) (e : ErrKind) : Prop := ∃ t, exec i s = .next t ∧ Failed s t e

/-- The rational number a register with a nonzero denominator holds (10_state.md R36). -/
def RatReg.value (x : RatReg) : ℚ := (x.num : ℚ) / (x.den : ℚ)

/-- The register pattern of a rational number in lowest terms (10_state.md R34, R36). -/
def ratPattern (z : ℚ) : RatReg := ⟨word64 z.num, word64 ((z.den : Int) - 1)⟩

/-- The number a finite binary64 word denotes (00_scope.md R18, 43_convert.md R203). -/
def f64Value (w : Word) : ℚ :=
  (if w.getLsbD 63 then -1 else 1) *
    (if f64Exp w = 0 then (f64Frac w : ℚ) * 2 ^ (-1074 : Int)
     else (2 ^ 52 + f64Frac w : ℚ) * 2 ^ ((f64Exp w : Int) - 1075))

/-- The magnitude of an F64. -/
def F64.mag (f : F64) : ℚ := (f.sig : ℚ) * 2 ^ f.exp

/-- Every Q register is valid (10_state.md R35). -/
def AllValid (s : State) : Prop := ∀ i, (readQ s i).valid = true

/-- What STATUS and the engine satisfy in every run: the reserved bits read 0 (10_state.md R38), BUSY is 1 exactly
while a command executes (R41), and ERR never takes code 5 (60_exceptions.md R240). -/
structure StatusInv (s : State) : Prop where
  reserved : statusReserved s.status = 0
  busy : statusBusy s.status = true ↔ s.engine ≠ .idle
  err : statusErr s.status ≠ 5

/-- Every access the host will present is admitted (70_reset_and_hazards.md R273 duty 2). -/
def HostAdmitted (s : State) : Prop := ∀ a, Input.access a ∈ s.inputs → (admittedReg a).isSome = true

/-- The access at the head of the inputs writes a word of a Q register (10_state.md R37). -/
def HostWritesQ (s : State) : Prop :=
  ∃ a rest i v, s.inputs = .access a :: rest ∧ a.kind = .write v ∧
    (admittedReg a = some (.qn i) ∨ admittedReg a = some (.qdb i))

/-- With the engine idle, the port serves a host read at `off` with `w` and changes nothing else (20_memory.md R62,
R65). -/
def ReadReturns (s : State) (off : Nat) (w : Word) : Prop :=
  ∀ rest, s.inputs = .access ⟨off, 8, .read⟩ :: rest →
    step s = .next { s with inputs := rest, returned := s.returned ++ [w] }

/-- With the engine idle, a host write of `v` at `off` takes `s` to `t`, but for the inputs, which lose the access. -/
def WriteGives (s : State) (off : Nat) (v : Word) (t : State) : Prop :=
  ∀ rest, s.inputs = .access ⟨off, 8, .write v⟩ :: rest → step s = .next { t with inputs := rest }

/-- The G registers a command names as destinations (30_encoding.md R86). -/
def gDests : Instr → List GReg
  | .xgcd rd _ _ rd2 rd3 => [rd, rd2, rd3]
  | .gcd rd _ _ => [rd]
  | .qvalid rd _ => [rd]
  | .qnum rd _ => [rd]
  | .qden rd _ => [rd]
  | .qsgn rd _ => [rd]
  | .qisz rd _ => [rd]
  | .qcmp rd _ _ => [rd]
  | .q2f rd _ => [rd]
  | .nop => []
  | .qnew _ _ _ => []
  | .qmov _ _ => []
  | .qadd _ _ _ => []
  | .qsub _ _ _ => []
  | .qmul _ _ _ => []
  | .qdiv _ _ _ => []
  | .qinv _ _ => []
  | .qneg _ _ => []
  | .qabs _ _ => []
  | .f2q _ _ => []

/-- The Q registers a command names as destinations (30_encoding.md R86). -/
def qDests : Instr → List QReg
  | .qnew rd _ _ => [rd]
  | .qmov rd _ => [rd]
  | .qadd rd _ _ => [rd]
  | .qsub rd _ _ => [rd]
  | .qmul rd _ _ => [rd]
  | .qdiv rd _ _ => [rd]
  | .qinv rd _ => [rd]
  | .qneg rd _ => [rd]
  | .qabs rd _ => [rd]
  | .f2q rd _ => [rd]
  | .nop => []
  | .xgcd _ _ _ _ _ => []
  | .gcd _ _ _ => []
  | .qvalid _ _ => []
  | .qnum _ _ => []
  | .qden _ _ => []
  | .qsgn _ _ => []
  | .qisz _ _ => []
  | .qcmp _ _ _ => []
  | .q2f _ _ => []

/-- The Q sources a command checks (30_encoding.md R92); QVALID and QMOV check none. -/
def checkedSources : Instr → List QReg
  | .qnum _ rs1 => [rs1]
  | .qden _ rs1 => [rs1]
  | .qsgn _ rs1 => [rs1]
  | .qisz _ rs1 => [rs1]
  | .qadd _ rs1 rs2 => [rs1, rs2]
  | .qsub _ rs1 rs2 => [rs1, rs2]
  | .qmul _ rs1 rs2 => [rs1, rs2]
  | .qdiv _ rs1 rs2 => [rs1, rs2]
  | .qinv _ rs1 => [rs1]
  | .qneg _ rs1 => [rs1]
  | .qabs _ rs1 => [rs1]
  | .qcmp _ rs1 rs2 => [rs1, rs2]
  | .q2f _ rs1 => [rs1]
  | .nop => []
  | .xgcd _ _ _ _ _ => []
  | .gcd _ _ _ => []
  | .qnew _ _ _ => []
  | .qvalid _ _ => []
  | .qmov _ _ => []
  | .f2q _ _ => []

/-- The error kinds a legal command can report (60_exceptions.md R241, without code 7, which belongs to CMD values
that are not Legal). -/
def possibleErrors : Instr → List ErrKind
  | .nop => []
  | .xgcd _ _ _ _ _ => [.operandInvalid]
  | .gcd _ _ _ => [.operandInvalid]
  | .qnew _ _ _ => [.denominatorInvalid, .numeratorOverflow]
  | .qvalid _ _ => []
  | .qmov _ _ => []
  | .qnum _ _ => [.operandInvalid]
  | .qden _ _ => [.operandInvalid]
  | .qsgn _ _ => [.operandInvalid]
  | .qisz _ _ => [.operandInvalid]
  | .qadd _ _ _ => [.denominatorOverflow, .numeratorOverflow, .operandInvalid]
  | .qsub _ _ _ => [.denominatorOverflow, .numeratorOverflow, .operandInvalid]
  | .qmul _ _ _ => [.denominatorOverflow, .numeratorOverflow, .operandInvalid]
  | .qdiv _ _ _ => [.denominatorOverflow, .numeratorOverflow, .divisionByZero, .operandInvalid]
  | .qinv _ _ => [.divisionByZero, .operandInvalid]
  | .qneg _ _ => [.operandInvalid]
  | .qabs _ _ => [.operandInvalid]
  | .qcmp _ _ _ => [.operandInvalid]
  | .q2f _ _ => [.operandInvalid]
  | .f2q _ _ => [.denominatorOverflow, .numeratorOverflow, .operandInvalid]

/-- The port offsets of the words a command's destinations hold (20_memory.md R62). -/
def destOffsets (i : Instr) : List Nat :=
  (gDests i).map (fun r => 8 * r.val) ++
    ((qDests i).map (fun r => 0x40 + 16 * r.val) ++ (qDests i).map (fun r => 0x48 + 16 * r.val))

end Sys2Proof.Machine
end

