-- ==== Sys2Proof/Certificates/Slice0/Obligations.lean ====
section
/-! DEFINITION. The statements about the rat128 CORE, for the provers. `Finishes`, `FinishesG`, `FinishesQ` and `Reports`
(Safety.lean) each say that `exec` answers a next state and what every field of it holds. -/

open Sys2Proof Sys2Proof.Machine

/-! ## Encoding -/

/-- 30_encoding.md R81, R82, R86: decoding the encoding of a well-formed command gives the command, for every value of
every register field. -/
def Obligations.EncodeThenDecode : Prop := ∀ i : Instr, wellFormed i = true → decode (encode i) = .ok i

/-- R80, R87: a CMD value that decodes is the encoding of its command, so each command has one legal encoding, and no
bit of a legal value is ignored. -/
def Obligations.DecodeThenEncode : Prop :=
  ∀ (v : Word) (i : Instr), decode v = .ok i → encode i = v ∧ wellFormed i = true

/-- The three examples of R89, and one word each of 41_construct.md R122 and 43_convert.md R202. -/
def Obligations.SpecExampleWordsDecode : Prop :=
  decode 0x00010220#64 = .ok (.qadd 2 0 1) ∧ decode 0x04310201#64 = .ok (.xgcd 2 0 1 3 4) ∧
    decode 0#64 = .ok .nop ∧ decode 0x00001011#64 = .ok (.qvalid 0 1) ∧ decode 0x00000130#64 = .ok (.q2f 1 0)

/-- R87: Legal in the form with the opcode table's mask and match, condition 1 and condition 5. -/
def Obligations.LegalIsTheMaskTest : Prop :=
  ∀ v : Word, legal v = true ↔
    v.extractLsb' 32 32 = 0#32 ∧ (∃ r ∈ opcodeTable, r.holds (v.setWidth 32) = true) ∧
      (v.extractLsb' 0 8 = 1#8 →
        v.extractLsb' 8 3 ≠ v.extractLsb' 20 3 ∧ v.extractLsb' 8 3 ≠ v.extractLsb' 24 3 ∧
          v.extractLsb' 20 3 ≠ v.extractLsb' 24 3)

/-! ## The engine and the port -/

/-- When the engine is in its completing cycle and reset is not asserted, and CMD decodes to `i`, a step is `exec` of
`i` (30_encoding.md R90) at that state after the port's part of the cycle, which changes only the two lists that are the
model's own and, where the host and the platform do nothing, nothing; `State.withFetchWord` builds such a state. That one
step is the completing cycle is the model's form of time (log 1, log 10). -/
def Obligations.StepRunsTheDecodedCommand : Prop :=
  (∀ (s : State) (i : Instr), resetAsserted s = false → s.engine = .executing 0 → decode (fetchCommand s) = .ok i →
    step s = exec i (busyPort s)) ∧
  (∀ s : State, ∃ inputs returned, busyPort s = { s with inputs := inputs, returned := returned }) ∧
  (∀ s : State, s.inputs = [] → busyPort s = s) ∧
  (∀ (s : State) (i : Instr) (w : Nat), w < 2 ^ 32 → decode (BitVec.ofNat 64 w) = .ok i →
    step (s.withFetchWord 32 w) = exec i (busyPort (s.withFetchWord 32 w)))

/-- R87, R88: a CMD value that is not Legal completes with ILLEGAL_COMMAND and changes no register, EXACT included. The
cycle in which it completes, and the port's part of it, are the model's form of time (log 1). -/
def Obligations.IllegalCommandIsReported : Prop :=
  ∀ s : State, resetAsserted s = false → s.engine = .executing 0 → legal s.cmd = false →
    ∃ t, step s = .next t ∧ Failed (busyPort s) t .illegalCommand

/-- 10_state.md R41, R43: a host write of `v` to CMD with the engine idle stores `v`, raises BUSY and starts a command;
every other register and field stays as it is. That it takes LATENCY cycles is 00_scope.md R11; that they are counted
after the CMD write, and what LATENCY's operands are (none for a CMD value that is not Legal), is the model's choice
(log 3). -/
def Obligations.CmdWriteStartsTheCommand : Prop :=
  ∀ (s : State) (v : Word) (rest : List Input), s.engine = .idle → s.inputs = .access ⟨0xC0, 8, .write v⟩ :: rest →
    ∃ t n, step s = .next t ∧ t.cmd = v ∧ t.engine = .executing n ∧ n + 1 = Config.latency v (commandWords v s) ∧
      statusBusy t.status = true ∧ statusErr t.status = statusErr s.status ∧
      statusExact t.status = statusExact s.status ∧ statusSticky t.status = statusSticky s.status ∧
      statusReserved t.status = statusReserved s.status ∧ t.g = s.g ∧ t.q = s.q ∧ t.inputs = rest ∧
      t.returned = s.returned

/-- 20_memory.md R66, 70_reset_and_hazards.md R275: in every cycle in which the engine executes and reset is not
asserted, an admitted access other than a read of STATUS is held, and a read of STATUS is performed at once and returns
STATUS as it stood when the cycle began. Before the last of these cycles no register changes; in the last one the command
completes, and G, Q and STATUS become what they become with no access at all. That the read is served before the CMD
write completes is read from the spec (log 6). That the countdown goes by cycles, and that a list entry without an access
lasts one of them, is the model's choice (log 1). -/
def Obligations.BusyPortServesOnlyStatusReads : Prop :=
  ∀ (s : State) (n : Nat), s.engine = .executing n → resetAsserted s = false →
    ∃ t, step s = .next t ∧ t.cmd = s.cmd ∧
      (∀ m, n = m + 1 → t.g = s.g ∧ t.q = s.q ∧ t.status = s.status ∧ t.engine = .executing m) ∧
      (n = 0 → t.engine = .idle ∧
        ∃ u, step { s with inputs := [] } = .next u ∧ t.g = u.g ∧ t.q = u.q ∧ t.status = u.status) ∧
      (∀ a rest, s.inputs = .access a :: rest → (admittedReg a).isSome = true →
        (a = ⟨0xC8, 8, .read⟩ → t.inputs = rest ∧ t.returned = s.returned ++ [s.status]) ∧
          (a ≠ ⟨0xC8, 8, .read⟩ → t.inputs = s.inputs ∧ t.returned = s.returned)) ∧
      ((∀ a rest, s.inputs ≠ .access a :: rest) → t.inputs = s.inputs.tail ∧ t.returned = s.returned)

/-- 10_state.md R30: the engine never starts work on its own. With the engine idle, a cycle in which the host presents
no access and reset is not asserted leaves G, Q, STATUS, CMD and the engine as they are, and a step that leaves the
engine executing is one in which the host writes CMD. That a step is a cycle, and that such a cycle takes one entry of the
list of inputs, is the model's choice (log 1). -/
def Obligations.IdleEngineStartsNothingByItself : Prop :=
  (∀ s : State, s.engine = .idle → (s.inputs = [] ∨ ∃ rest, s.inputs = .quiet :: rest) →
    step s = .next { s with inputs := s.inputs.tail }) ∧
  (∀ s t : State, s.engine = .idle → step s = .next t → t.engine ≠ .idle →
    ∃ v rest, s.inputs = .access ⟨0xC0, 8, .write v⟩ :: rest)

/-- 10_state.md R41, 20_memory.md R66, R67, 70_reset_and_hazards.md R277: whatever accesses the host presents meanwhile,
a command in execution completes when its cycles are over, BUSY is 0 again, and G, Q, STATUS and CMD are what
executing it as one atomic transition from the first state gives. Only reset can prevent it. The count of cycles is the
model's form of time (log 1: the spec promises none), and that an access which is not admitted is held meanwhile, and
so does not stop the command, is the model's choice (log 5). -/
def Obligations.CommandCompletesAtomically : Prop :=
  ∀ (n : Nat) (s : State), s.engine = .executing n → Input.reset ∉ s.inputs →
    ∃ t u : State, Host.Core.run Sys2Proof.core (n + 1) s = .next t ∧ completeCycle s = .next u ∧ t.g = u.g ∧ t.q = u.q ∧
      t.status = u.status ∧ t.cmd = u.cmd ∧ t.engine = .idle ∧ statusBusy t.status = false

/-- 70_reset_and_hazards.md R270: a cycle with reset asserted abandons a command in execution and sets every piece of
state to its value of 10_state.md R46. That the model's own two lists go on is the model's choice (log 7). -/
def Obligations.ResetCycleSetsTheResetValues : Prop :=
  ∀ (s : State) (rest : List Input), s.inputs = .reset :: rest →
    ∃ t, step s = .next t ∧ (∀ i, readG t i = 0) ∧ (∀ i, readQ t i = ⟨0, 0⟩) ∧ t.status = 0 ∧ t.cmd = 0 ∧
      t.engine = .idle ∧ t.inputs = rest ∧ t.returned = s.returned

/-- 10_state.md R46: the state after reset, and that every Q register then holds the valid canonical zero. -/
def Obligations.ResetStateValues : Prop :=
  (∀ i, readG State.reset i = 0x0000000000000000#64) ∧
    (∀ i, (readQ State.reset i).n = 0x0000000000000000#64 ∧ (readQ State.reset i).db = 0x0000000000000000#64 ∧
      (readQ State.reset i).valid = true ∧ (readQ State.reset i).num = 0 ∧ (readQ State.reset i).den = 1) ∧
    State.reset.status = 0x0000000000000000#64 ∧ statusErr State.reset.status = 0 ∧
    statusExact State.reset.status = false ∧ statusBusy State.reset.status = false ∧
    statusSticky State.reset.status = false ∧ State.reset.cmd = 0x0000000000000000#64 ∧ State.reset.engine = .idle

/-- 20_memory.md R64: an access that is not 64 bits wide, not aligned to 8 or beyond offset 0xFF stops the host when the
engine is idle. While a command executes, it is held, so that the step goes on, the access stays at the head of the list
and nothing is returned: that is the model's choice, which the spec does not state (log 5). -/
def Obligations.NotAdmittedAccessStopsTheHost : Prop :=
  ∀ (s : State) (a : HostAccess) (rest : List Input), s.inputs = .access a :: rest →
    (a.bytes ≠ 8 ∨ a.off % 8 ≠ 0 ∨ 0xFF < a.off) →
    (s.engine = .idle → step s = .fault (.accessNotAdmitted a)) ∧
      (s.engine ≠ .idle → ∃ t, step s = .next t ∧ t.inputs = s.inputs ∧ t.returned = s.returned)

/-- 60_exceptions.md R243, 70_reset_and_hazards.md R273 duty 2, R277: a host that presents only admitted accesses never
sees the machine stop, from any state and for any number of steps. -/
def Obligations.AdmittedHostNeverStops : Prop :=
  ∀ (k : Nat) (s : State), HostAdmitted s → ∃ t : State, Host.Core.run Sys2Proof.core k s = .next t

/-- 20_memory.md R62, R65: what a host read at each offset of the map returns; it changes nothing. -/
def Obligations.PortReadsReturnTheMappedRegister : Prop :=
  ∀ s : State, s.engine = .idle →
    (∀ i : GReg, ReadReturns s (8 * i.val) (readG s i)) ∧
    (∀ i : QReg, ReadReturns s (0x40 + 16 * i.val) (readQ s i).n) ∧
    (∀ i : QReg, ReadReturns s (0x48 + 16 * i.val) (readQ s i).db) ∧
    ReadReturns s 0xC0 s.cmd ∧ ReadReturns s 0xC8 s.status ∧
    (∀ k : Nat, k < 6 → ReadReturns s (0xD0 + 8 * k) 0)

/-- 20_memory.md R62, 10_state.md R37, R38: what a host write at each offset but CMD does. G and Q take the value
exactly; STATUS loses ESTICKY if bit 5 is 1 and changes in no other bit; reserved offsets ignore it. -/
def Obligations.PortWritesReachTheMappedRegister : Prop :=
  ∀ (s : State) (v : Word), s.engine = .idle →
    (∀ i : GReg, WriteGives s (8 * i.val) v { s with g := s.g.set i v }) ∧
    (∀ i : QReg, WriteGives s (0x40 + 16 * i.val) v { s with q := s.q.set i ⟨v, (readQ s i).db⟩ }) ∧
    (∀ i : QReg, WriteGives s (0x48 + 16 * i.val) v { s with q := s.q.set i ⟨(readQ s i).n, v⟩ }) ∧
    WriteGives s 0xC8 v
      { s with status := if v.getLsbD 5 then s.status &&& 0xFFFFFFFFFFFFFFDF#64 else s.status } ∧
    (∀ k : Nat, k < 6 → WriteGives s (0xD0 + 8 * k) v s)

/-- 20_memory.md R61, R63: the byte at PORT_BASE + off + k is bits 8k+7 to 8k of the register at `off`; outside the
window the block has no byte. -/
def Obligations.HostBytesAreLittleEndianLanes : Prop :=
  (∀ (s : State) (off k : Nat) (r : PortReg), portReg off = some r → k < 8 →
    hostByte s (Config.portBase + off + k) = some ((readPort s r).extractLsb' (8 * k) 8)) ∧
  (∀ (s : State) (addr : Nat), addr < Config.portBase ∨ Config.portBase + 256 ≤ addr → hostByte s addr = none)

/-! ## Invariants -/

/-- 10_state.md R38, R41, R46, 60_exceptions.md R240: the invariant of STATUS holds at reset. -/
def Obligations.StatusInvAtReset : Prop := StatusInv State.reset

/-- 10_state.md R38, R41, 60_exceptions.md R240: every step keeps it, so the reserved bits read 0, BUSY is 1 exactly
while a command executes, and ERR never takes code 5. -/
def Obligations.StepKeepsStatusInv : Prop := ∀ s t : State, StatusInv s → step s = .next t → StatusInv t

/-- 10_state.md R37: after a command each Q register is unchanged or valid, but for QMOV's raw copy. -/
def Obligations.CommandsWriteOnlyValidRationals : Prop :=
  ∀ (i : Instr) (s t : State) (j : QReg), exec i s = .next t →
    readQ t j = readQ s j ∨ (readQ t j).valid = true ∨ ∃ r, i = .qmov j r ∧ readQ t j = readQ s r

/-- 10_state.md R37: a step keeps every Q register valid unless it is one in which the host presents a write to Q. -/
def Obligations.StepKeepsQRegistersValid : Prop :=
  ∀ s t : State, AllValid s → ¬ HostWritesQ s → step s = .next t → AllValid t

/-! ## Rules about every command -/

/-- 30_encoding.md R90, R93, 60_exceptions.md R243: every command ends in one of two ways, with ERR 0, or with an error
that leaves every G, every Q and EXACT as they were. -/
def Obligations.EveryCommandFinishesOrReports : Prop :=
  ∀ (i : Instr) (s : State), (∃ g q b, Finishes i s g q b) ∨ ∃ e, Reports i s e

/-- 60_exceptions.md R241: the errors each well-formed command can report. -/
def Obligations.CommandsReportOnlyTheirErrors : Prop :=
  ∀ (i : Instr) (s : State) (e : ErrKind), wellFormed i = true → Reports i s e → e ∈ possibleErrors i

/-- 30_encoding.md R92: a command that checks its Q sources reports OPERAND_INVALID if one of them is not valid; QVALID
and QMOV check none and complete without error from every state. -/
def Obligations.InvalidSourceIsReported : Prop :=
  (∀ (i : Instr) (s : State), (∃ r ∈ checkedSources i, (readQ s r).valid = false) → Reports i s .operandInvalid) ∧
    ∀ (s : State) (gd : GReg) (qd qs : QReg),
      (∃ g, Finishes (.qvalid gd qs) s g s.q (statusExact s.status)) ∧
        ∃ q, Finishes (.qmov qd qs) s s.g q (statusExact s.status)

/-- 30_encoding.md R86, R93, 10_state.md R32, R38, R43: a command changes no G and no Q register but its destinations,
and neither CMD nor the reserved bits of STATUS nor what the host does or has read. -/
def Obligations.CommandsChangeOnlyTheirDestinations : Prop :=
  ∀ (i : Instr) (s t : State), exec i s = .next t →
    (∀ j, j ∉ gDests i → readG t j = readG s j) ∧ (∀ j, j ∉ qDests i → readQ t j = readQ s j) ∧ t.cmd = s.cmd ∧
      statusReserved t.status = statusReserved s.status ∧ t.inputs = s.inputs ∧ t.returned = s.returned

/-- 20_memory.md R60, R62, R63: the same in bytes of the one address space: every byte of the window outside the words
of the destinations and outside STATUS reads as before. -/
def Obligations.CommandsLeaveOtherPortBytes : Prop :=
  ∀ (i : Instr) (s t : State) (a : Nat), exec i s = .next t → a < 256 →
    (∀ o ∈ destOffsets i, a < o ∨ o + 8 ≤ a) → (a < 0xC8 ∨ 0xD0 ≤ a) → portByte t a = portByte s a

/-- 10_state.md R39: outside reset, ERR is written exactly when a command completes: 0 if it completed without error, else
the code of the error it reported, ILLEGAL_COMMAND for a CMD value that is not Legal; in every other step it holds. -/
def Obligations.ErrHoldsUntilACommandCompletes : Prop :=
  ∀ s t : State, step s = .next t → resetAsserted s = false →
    (s.engine ≠ .executing 0 → statusErr t.status = statusErr s.status) ∧
    (s.engine = .executing 0 → legal s.cmd = false → Failed (busyPort s) t .illegalCommand) ∧
    (∀ i, s.engine = .executing 0 → decode s.cmd = .ok i →
      (statusErr t.status = 0 ∧ ∃ g q b, Done (busyPort s) t g q b) ∨
        ∃ e, statusErr t.status = errCode e ∧ Failed (busyPort s) t e)

/-- 10_state.md R40: outside reset, EXACT is written only in a step in which a Q2F completes without error, and it then
takes the flag of 43_convert.md R201. -/
def Obligations.ExactIsWrittenOnlyByQ2f : Prop :=
  ∀ s t : State, step s = .next t → resetAsserted s = false →
    (∀ rd rs1, s.engine = .executing 0 → decode s.cmd = .ok (.q2f rd rs1) → (readQ s rs1).valid = true →
      statusExact t.status = exactFlag (readQ s rs1).toRatio) ∧
    ((¬ ∃ rd rs1, s.engine = .executing 0 ∧ decode s.cmd = .ok (.q2f rd rs1) ∧ (readQ s rs1).valid = true) →
      statusExact t.status = statusExact s.status)

/-- 10_state.md R42: a command that completes with ERR ≠ 0 sets ESTICKY and no command clears it; a host write to
STATUS clears it exactly if bit 5 is 1; in every other step outside reset it holds (reset clears it, R270). -/
def Obligations.StickyIsSetByErrorsAndClearedByTheHost : Prop :=
  (∀ s t : State, resetAsserted s = false → s.engine = .executing 0 → step s = .next t →
    statusSticky t.status = (statusSticky s.status || statusErr t.status != 0)) ∧
  (∀ (s : State) (v : Word) (rest : List Input), s.engine = .idle →
    s.inputs = .access ⟨0xC8, 8, .write v⟩ :: rest →
    ∃ t, step s = .next t ∧ statusSticky t.status = (statusSticky s.status && !v.getLsbD 5)) ∧
  (∀ s t : State, resetAsserted s = false → step s = .next t → s.engine ≠ .executing 0 →
    (¬ ∃ v rest, s.engine = .idle ∧ s.inputs = .access ⟨0xC8, 8, .write v⟩ :: rest) →
    statusSticky t.status = statusSticky s.status)

/-! ## System and GCD engine -/

/-- 44_system.md R230: NOP completes, writes no register, clears ERR, and leaves EXACT and ESTICKY; its one legal CMD
value is 0, and any other value with OPC 0x00 is not Legal and reports ILLEGAL_COMMAND. -/
def Obligations.NopClearsErrOnly : Prop :=
  (∀ s : State, Finishes .nop s s.g s.q (statusExact s.status)) ∧ decode 0#64 = .ok .nop ∧
    ∀ s : State, resetAsserted s = false → s.engine = .executing 0 → s.cmd.extractLsb' 0 8 = 0#8 → s.cmd ≠ 0 →
      legal s.cmd = false ∧ ∃ t, step s = .next t ∧ Failed (busyPort s) t .illegalCommand

/-- 40_gcd.md R102: XGCD with three different destinations and inputs other than −2^63 writes the triple of R100's loop
to RD, RD2 and RD3 and nothing else. -/
def Obligations.XgcdWritesTheLoopTriple : Prop :=
  ∀ (s : State) (rd rs1 rs2 rd2 rd3 : GReg), rd ≠ rd2 → rd ≠ rd3 → rd2 ≠ rd3 →
    sint64 (readG s rs1) ≠ MIN → sint64 (readG s rs2) ≠ MIN →
    let r := xgcdF (sint64 (readG s rs1)) (sint64 (readG s rs2))
    Finishes (.xgcd rd rs1 rs2 rd2 rd3) s
      (((s.g.set rd (word64 r.d)).set rd2 (word64 r.a)).set rd3 (word64 r.b)) s.q (statusExact s.status)

/-- 40_gcd.md R100, 70_reset_and_hazards.md R277: the loop has ended after abs(n) turns, whatever m and n are, and more
turns change nothing. -/
def Obligations.GcdLoopEndsWithinItsFuel : Prop :=
  ∀ (m n : Int) (k : Nat), n.natAbs ≤ k →
    (gcdLoop n.natAbs ⟨m, n, 1, 0, 0, 1⟩).r1 = 0 ∧
      gcdLoop k ⟨m, n, 1, 0, 0, 1⟩ = gcdLoop n.natAbs ⟨m, n, 1, 0, 0, 1⟩

/-- 40_gcd.md R101: for inputs in [MIN + 1, MAX], a·m + b·n = d = gcd(abs(m), abs(n)) with 0 ≤ d ≤ MAX, the loop's
variables stay within MAX in magnitude at every turn, so do a and b, and the two results with n = 0. The bound by MAX on
a, b and the loop's variables is R101's "Moreover" sentence, whose ground the spec marks as general knowledge and not in
its source. -/
def Obligations.XgcdTripleIsBezoutAndFits : Prop :=
  ∀ m n : Int, MIN < m → m ≤ MAX → MIN < n → n ≤ MAX →
    let r := xgcdF m n
    r.a * m + r.b * n = r.d ∧ r.d = (Nat.gcd m.natAbs n.natAbs : Nat) ∧ r.d ≤ MAX ∧
      |r.a| ≤ MAX ∧ |r.b| ≤ MAX ∧
      (∀ k, let v := gcdLoop k ⟨m, n, 1, 0, 0, 1⟩
        |v.r0| ≤ MAX ∧ |v.r1| ≤ MAX ∧ |v.s0| ≤ MAX ∧ |v.s1| ≤ MAX ∧ |v.t0| ≤ MAX ∧ |v.t1| ≤ MAX) ∧
      (m = 0 → n = 0 → r = ⟨1, 0, 0⟩) ∧ (m ≠ 0 → n = 0 → r = ⟨m.sign, 0, m.natAbs⟩)

/-- 40_gcd.md R101, R102: on the machine, the three registers XGCD writes satisfy Bézout's identity as signed 64-bit
integers, and RD holds the greatest common divisor. -/
def Obligations.XgcdRegistersSatisfyBezout : Prop :=
  ∀ (s : State) (rd rs1 rs2 rd2 rd3 : GReg), rd ≠ rd2 → rd ≠ rd3 → rd2 ≠ rd3 →
    sint64 (readG s rs1) ≠ MIN → sint64 (readG s rs2) ≠ MIN →
    ∃ t, exec (.xgcd rd rs1 rs2 rd2 rd3) s = .next t ∧ statusErr t.status = 0 ∧
      sint64 (readG t rd2) * sint64 (readG s rs1) + sint64 (readG t rd3) * sint64 (readG s rs2) = sint64 (readG t rd) ∧
      sint64 (readG t rd) = Int.gcd (sint64 (readG s rs1)) (sint64 (readG s rs2))

/-- 40_gcd.md R103: GCD writes the greatest common divisor of the magnitudes to RD. -/
def Obligations.GcdWritesTheGcd : Prop :=
  ∀ (s : State) (rd rs1 rs2 : GReg), sint64 (readG s rs1) ≠ MIN → sint64 (readG s rs2) ≠ MIN →
    FinishesG (.gcd rd rs1 rs2) s rd (word64 (Int.gcd (sint64 (readG s rs1)) (sint64 (readG s rs2))))

/-- 40_gcd.md R102, R103: an input of −2^63 is refused with OPERAND_INVALID. -/
def Obligations.GcdCommandsRefuseMin : Prop :=
  ∀ (s : State) (rd rs1 rs2 rd2 rd3 : GReg), readG s rs1 = 0x8000000000000000#64 ∨ readG s rs2 = 0x8000000000000000#64 →
    Reports (.gcd rd rs1 rs2) s .operandInvalid ∧
      (rd ≠ rd2 → rd ≠ rd3 → rd2 ≠ rd3 → Reports (.xgcd rd rs1 rs2 rd2 rd3) s .operandInvalid)

/-! ## Constructor, validity and accessors -/

/-- 10_state.md R35: Valid is its four conditions; condition 1 in terms of the biased word; and Valid is condition 1
with re-reduction giving the same pair. -/
def Obligations.ValidityIsTheFourConditions : Prop :=
  ∀ x : RatReg,
    (x.valid = true ↔ (1 ≤ x.den ∧ x.den ≤ MAX) ∧ x.num ≠ MIN ∧ (x.num = 0 → x.den = 1) ∧
      (x.num ≠ 0 → Nat.gcd x.num.natAbs x.den.natAbs = 1)) ∧
    ((1 ≤ x.den ∧ x.den ≤ MAX) ↔ (0 ≤ sint64 x.db ∧ sint64 x.db ≤ 2 ^ 63 - 2)) ∧
    (x.valid = true ↔ (1 ≤ x.den ∧ x.den ≤ MAX) ∧ reduce x.num x.den = .ok ⟨x.num, x.den⟩)

/-- 10_state.md R36: every rational in range has exactly one valid pattern, and two valid registers hold the same value
exactly when their bits are identical. -/
def Obligations.ValidPatternsAreCanonical : Prop :=
  (∀ z : ℚ, -MAX ≤ z.num → z.num ≤ MAX → (z.den : Int) ≤ MAX → ∃! x : RatReg, x.valid = true ∧ x.value = z) ∧
    ∀ x y : RatReg, x.valid = true → y.valid = true → (x.value = y.value ↔ x = y)

/-- 41_construct.md R120, R121: QNEW refuses a denominator ≤ 0; otherwise it stores n/d in lowest terms, unless the
reduced numerator is −2^63, which happens exactly for n = −2^63 and odd d. -/
def Obligations.QnewStoresTheReducedQuotient : Prop :=
  ∀ (s : State) (rd : QReg) (rs1 rs2 : GReg),
    let n := sint64 (readG s rs1)
    let d := sint64 (readG s rs2)
    (d ≤ 0 → Reports (.qnew rd rs1 rs2) s .denominatorInvalid) ∧
      (0 < d → n = MIN → d % 2 = 1 → Reports (.qnew rd rs1 rs2) s .numeratorOverflow) ∧
      (0 < d → ¬(n = MIN ∧ d % 2 = 1) → FinishesQ (.qnew rd rs1 rs2) s rd (ratPattern ((n : ℚ) / (d : ℚ))))

/-- 41_construct.md R122: QVALID completes for every pattern and writes 1 or 0 by the conditions of 10_state.md R35. -/
def Obligations.QvalidWritesTheValidity : Prop :=
  ∀ (s : State) (rd : GReg) (rs1 : QReg),
    let x := readQ s rs1
    (1 ≤ x.den → x.den ≤ MAX → x.num ≠ MIN → Int.gcd x.num x.den = 1 → FinishesG (.qvalid rd rs1) s rd 1) ∧
      (¬(1 ≤ x.den ∧ x.den ≤ MAX ∧ x.num ≠ MIN ∧ Int.gcd x.num x.den = 1) → FinishesG (.qvalid rd rs1) s rd 0)

/-- 41_construct.md R123, R124: QNUM writes the numerator word; QDEN writes DB + 1, which as a signed integer is the
denominator, at least 1. -/
def Obligations.QnumAndQdenWriteTheirParts : Prop :=
  ∀ (s : State) (rd : GReg) (rs1 : QReg), (readQ s rs1).valid = true →
    FinishesG (.qnum rd rs1) s rd (readQ s rs1).n ∧ FinishesG (.qden rd rs1) s rd ((readQ s rs1).db + 1) ∧
      sint64 ((readQ s rs1).db + 1) = (readQ s rs1).den ∧ 1 ≤ sint64 ((readQ s rs1).db + 1)

/-- 41_construct.md R125, R126: QSGN writes the sign of the value as −1, 0 or 1, QISZ whether it is zero. -/
def Obligations.QsgnAndQiszReadTheValue : Prop :=
  ∀ (s : State) (rd : GReg) (rs1 : QReg), (readQ s rs1).valid = true →
    let z := (readQ s rs1).value
    FinishesG (.qsgn rd rs1) s rd (if 0 < z then 1#64 else if z < 0 then 0xFFFFFFFFFFFFFFFF#64 else 0#64) ∧
      FinishesG (.qisz rd rs1) s rd (if z = 0 then 1#64 else 0#64)

/-- 41_construct.md R127: QMOV copies the 128 bits of any pattern, valid or not. -/
def Obligations.QmovCopiesTheBits : Prop :=
  ∀ (s : State) (rd rs1 : QReg), FinishesQ (.qmov rd rs1) s rd (readQ s rs1)

/-! ## Arithmetic unit -/

/-- 42_arith.md R153, R154, R156, R157: QADD stores the exact sum in lowest terms unless a quotient by gcd(n1, n2)
exceeds MAX; then it reports that error, the numerator first, even where the sum itself would fit. -/
def Obligations.QaddStoresTheSumOrReports : Prop :=
  ∀ (s : State) (rd rs1 rs2 : QReg), (readQ s rs1).valid = true → (readQ s rs2).valid = true →
    let x := readQ s rs1
    let y := readQ s rs2
    let q := (x.num * y.den + y.num * x.den).natAbs / Int.gcd x.den y.den
    let l := (x.den * y.den).natAbs / Int.gcd x.den y.den
    (MAX < q → Reports (.qadd rd rs1 rs2) s .numeratorOverflow) ∧
      ((q : Int) ≤ MAX → MAX < l → Reports (.qadd rd rs1 rs2) s .denominatorOverflow) ∧
      ((q : Int) ≤ MAX → (l : Int) ≤ MAX → FinishesQ (.qadd rd rs1 rs2) s rd (ratPattern (x.value + y.value)))

/-- 42_arith.md R155: QSUB is QADD with the second operand negated. -/
def Obligations.QsubStoresTheDifferenceOrReports : Prop :=
  ∀ (s : State) (rd rs1 rs2 : QReg), (readQ s rs1).valid = true → (readQ s rs2).valid = true →
    let x := readQ s rs1
    let y := readQ s rs2
    let q := (x.num * y.den - y.num * x.den).natAbs / Int.gcd x.den y.den
    let l := (x.den * y.den).natAbs / Int.gcd x.den y.den
    (MAX < q → Reports (.qsub rd rs1 rs2) s .numeratorOverflow) ∧
      ((q : Int) ≤ MAX → MAX < l → Reports (.qsub rd rs1 rs2) s .denominatorOverflow) ∧
      ((q : Int) ≤ MAX → (l : Int) ≤ MAX → FinishesQ (.qsub rd rs1 rs2) s rd (ratPattern (x.value - y.value)))

/-- 42_arith.md R156: where the narrow path is taken, the wide path gives the same pair and raises nothing; so QADD and
QSUB may be computed by the wide path alone. -/
def Obligations.AdditionPathIsNotObservable : Prop :=
  ∀ x y : Ratio, x.valid = true → y.valid = true →
    (narrowAdd x y = true → ∃ p, addNarrow x y = .ok p ∧ addWide x y = .ok p) ∧ addRatio x y = addWide x y ∧
      subRatio x y = addWide x (negRatio y)

/-- 42_arith.md R157, R161: QADD and QMUL are commutative in result and error, from every state. -/
def Obligations.QaddAndQmulCommute : Prop :=
  ∀ (s : State) (rd rs1 rs2 : QReg),
    exec (.qadd rd rs1 rs2) s = exec (.qadd rd rs2 rs1) s ∧ exec (.qmul rd rs1 rs2) s = exec (.qmul rd rs2 rs1) s

/-- 42_arith.md R160, R161, R163: QMUL stores the exact product in lowest terms; it reports NUMERATOR_OVERFLOW exactly
when the product's numerator exceeds MAX in magnitude, else DENOMINATOR_OVERFLOW exactly when its denominator does. -/
def Obligations.QmulStoresTheProductOrReports : Prop :=
  ∀ (s : State) (rd rs1 rs2 : QReg), (readQ s rs1).valid = true → (readQ s rs2).valid = true →
    let z := (readQ s rs1).value * (readQ s rs2).value
    (MAX < |z.num| → Reports (.qmul rd rs1 rs2) s .numeratorOverflow) ∧
      (|z.num| ≤ MAX → MAX < z.den → Reports (.qmul rd rs1 rs2) s .denominatorOverflow) ∧
      (|z.num| ≤ MAX → (z.den : Int) ≤ MAX → FinishesQ (.qmul rd rs1 rs2) s rd (ratPattern z))

/-- 42_arith.md R164, 60_exceptions.md R244: QDIV reports DIVISION_BY_ZERO for a zero divisor before any overflow, and
otherwise stores the exact quotient or reports its overflow as QMUL does. -/
def Obligations.QdivStoresTheQuotientOrReports : Prop :=
  ∀ (s : State) (rd rs1 rs2 : QReg), (readQ s rs1).valid = true → (readQ s rs2).valid = true →
    let y := (readQ s rs2).value
    let z := (readQ s rs1).value / y
    (y = 0 → Reports (.qdiv rd rs1 rs2) s .divisionByZero) ∧
      (y ≠ 0 → MAX < |z.num| → Reports (.qdiv rd rs1 rs2) s .numeratorOverflow) ∧
      (y ≠ 0 → |z.num| ≤ MAX → MAX < z.den → Reports (.qdiv rd rs1 rs2) s .denominatorOverflow) ∧
      (y ≠ 0 → |z.num| ≤ MAX → (z.den : Int) ≤ MAX → FinishesQ (.qdiv rd rs1 rs2) s rd (ratPattern z))

/-- 42_arith.md R162, R165: QINV reports DIVISION_BY_ZERO for zero and otherwise stores the inverse; it never
overflows. -/
def Obligations.QinvStoresTheInverseOrReports : Prop :=
  ∀ (s : State) (rd rs1 : QReg), (readQ s rs1).valid = true →
    ((readQ s rs1).value = 0 → Reports (.qinv rd rs1) s .divisionByZero) ∧
      ((readQ s rs1).value ≠ 0 → FinishesQ (.qinv rd rs1) s rd (ratPattern (readQ s rs1).value⁻¹))

/-- 42_arith.md R166, R167: QNEG and QABS of a valid source always succeed. -/
def Obligations.QnegAndQabsStoreTheirValue : Prop :=
  ∀ (s : State) (rd rs1 : QReg), (readQ s rs1).valid = true →
    FinishesQ (.qneg rd rs1) s rd (ratPattern (-(readQ s rs1).value)) ∧
      FinishesQ (.qabs rd rs1) s rd (ratPattern |(readQ s rs1).value|)

/-- 42_arith.md R168: QCMP writes −1, 0 or 1 by the order of the two values, and 0 exactly when the registers agree bit
for bit. -/
def Obligations.QcmpWritesTheOrder : Prop :=
  ∀ (s : State) (rd : GReg) (rs1 rs2 : QReg), (readQ s rs1).valid = true → (readQ s rs2).valid = true →
    let x := (readQ s rs1).value
    let y := (readQ s rs2).value
    (x < y → FinishesG (.qcmp rd rs1 rs2) s rd 0xFFFFFFFFFFFFFFFF#64) ∧
      (readQ s rs1 = readQ s rs2 → FinishesG (.qcmp rd rs1 rs2) s rd 0#64) ∧
      (y < x → FinishesG (.qcmp rd rs1 rs2) s rd 1#64) ∧ (x = y ↔ readQ s rs1 = readQ s rs2)

/-! ## Converter -/

/-- 43_convert.md R200, R201, R202: Q2F of a valid source writes the bits of the quotient of the two converted integers,
and EXACT says whether the numerator has at most 53 bits and the denominator is a power of two. -/
def Obligations.Q2fWritesTheQuotientAndFlag : Prop :=
  ∀ (s : State) (rd : GReg) (rs1 : QReg), (readQ s rs1).valid = true →
    let x := readQ s rs1
    ∃ b : Bool, (b = true ↔ x.num.natAbs < 2 ^ 53 ∧ ∃ k : Nat, x.den = 2 ^ k) ∧
      Finishes (.q2f rd rs1) s (s.g.set rd (f64Bits (f64Div (f64OfInt x.num) (f64OfInt x.den)))) s.q b

/-- 00_scope.md R18, with the exponent unbounded: the rounding `f64_of_int` and `f64_div` use gives a 53-bit significand
whose value is nearest to the exact quotient among all 53-bit significands and all integer exponents, and an even
significand where another is as near. R18 speaks of binary64 values, whose exponents are bounded; that the bound plays
no part inside Q2F is read from 43_convert.md R200 (log 9, DEDUCED), and a quotient beyond it, which no valid
operand gives, is not rounded here as R18 rounds it. -/
def Obligations.RoundingIsNearestTiesToEven : Prop :=
  ∀ (neg : Bool) (a b : Nat), 0 < a → 0 < b →
    let r := roundQuotient neg a b
    let z : ℚ := (a : ℚ) / (b : ℚ)
    r.neg = neg ∧ 2 ^ 52 ≤ r.sig ∧ r.sig < 2 ^ 53 ∧
      ∀ (m : Nat) (e : Int), 2 ^ 52 ≤ m → m < 2 ^ 53 →
        |z - r.mag| ≤ |z - (m : ℚ) * 2 ^ e| ∧
          ((m : ℚ) * 2 ^ e ≠ r.mag → |z - r.mag| = |z - (m : ℚ) * 2 ^ e| → r.sig % 2 = 0)

/-- 43_convert.md R200: for a valid nonzero source the result is a normal binary64 value, no overflow, underflow or NaN,
and the written bits denote the significand and exponent computed. -/
def Obligations.Q2fResultIsNormal : Prop :=
  ∀ x : RatReg, x.valid = true → x.num ≠ 0 →
    let f := toF64 x.toRatio
    f64Exp (f64Bits f) ≠ 0 ∧ f64Exp (f64Bits f) ≠ 0x7FF ∧
      f64Value (f64Bits f) = (if x.num < 0 then -1 else 1) * f.mag

/-- 43_convert.md R200, R201: where the flag is 1 the double equals x, and for a value that is no integer the flag is 1
exactly then. -/
def Obligations.ExactFlagMeansTheDoubleEqualsTheValue : Prop :=
  ∀ x : RatReg, x.valid = true →
    (exactFlag x.toRatio = true → f64Value (f64Bits (toF64 x.toRatio)) = x.value) ∧
      (x.den ≠ 1 → f64Value (f64Bits (toF64 x.toRatio)) = x.value → exactFlag x.toRatio = true)

/-- 43_convert.md R203, R204, R205: F2Q of a NaN reports OPERAND_INVALID, of an infinity NUMERATOR_OVERFLOW; a finite
double is stored exactly, in lowest terms, unless its magnitude is 2^63 or more (NUMERATOR_OVERFLOW) or its reduced
denominator is 2^63 or more (DENOMINATOR_OVERFLOW). -/
def Obligations.F2qStoresTheExactValueOrReports : Prop :=
  ∀ (s : State) (rd : QReg) (rs1 : GReg),
    let w := readG s rs1
    let z := f64Value w
    (f64Exp w = 0x7FF → f64Frac w ≠ 0 → Reports (.f2q rd rs1) s .operandInvalid) ∧
      (f64Exp w = 0x7FF → f64Frac w = 0 → Reports (.f2q rd rs1) s .numeratorOverflow) ∧
      (f64Exp w ≠ 0x7FF → 2 ^ 63 ≤ |z| → Reports (.f2q rd rs1) s .numeratorOverflow) ∧
      (f64Exp w ≠ 0x7FF → 2 ^ 63 ≤ z.den → Reports (.f2q rd rs1) s .denominatorOverflow) ∧
      (f64Exp w ≠ 0x7FF → |z| < 2 ^ 63 → z.den < 2 ^ 63 → FinishesQ (.f2q rd rs1) s rd (ratPattern z))

/-- 43_convert.md R206: after a Q2F with EXACT 1, F2Q of the double gives the register back bit for bit; and where F2Q
accepts a word, Q2F of the result gives the word back, but for −0.0, which comes back as +0.0. -/
def Obligations.ConversionRoundTrips : Prop :=
  (∀ (s t : State) (rd : GReg) (rs1 rd' : QReg), (readQ s rs1).valid = true → exec (.q2f rd rs1) s = .next t →
    statusExact t.status = true →
    ∃ u, exec (.f2q rd' rd) t = .next u ∧ statusErr u.status = 0 ∧ readQ u rd' = readQ s rs1) ∧
  (∀ (s t : State) (rd : QReg) (rs1 rd' : GReg), exec (.f2q rd rs1) s = .next t → statusErr t.status = 0 →
    ∃ u, exec (.q2f rd' rd) t = .next u ∧ statusErr u.status = 0 ∧
      readG u rd' = if readG s rs1 = 0x8000000000000000#64 then 0 else readG s rs1)
end

