-- ==== Sys2Proof/Laws/Encoding.lean ====
section
/-! SUPPORT. The fields of the command word the encoder builds (30_encoding.md R81), and R87's mask test. -/

namespace Sys2Proof

section
variable (opc : BitVec 8) (rd rs1 rs2 rd2 rd3 : Fin 8)

/-- A bit of a register field shifted into place. -/
theorem getLsbD_regField (r : Fin 8) (k j : Nat) :
    (BitVec.ofNat 64 r <<< k).getLsbD j = (decide (j < 64) && decide (k ≤ j) && decide (j < k + 3) &&
      r.val.testBit (j - k)) := by
  have hr : r.val < 2 ^ 3 := r.isLt
  by_cases hk : k ≤ j
  · by_cases hj : j < k + 3
    · by_cases h64 : j < 64
      · have : j - k < 64 := by omega
        rw [BitVec.getLsbD_shiftLeft, BitVec.getLsbD_ofNat]
        simp only [hk, hj, h64, this, Nat.not_lt.mpr hk, decide_true, decide_false, Bool.not_false, Bool.true_and]
      · simp [h64]
    · have : r.val.testBit (j - k) = false :=
        Nat.testBit_lt_two_pow (lt_of_lt_of_le hr (Nat.pow_le_pow_right (by omega) (by omega)))
      simp [BitVec.getLsbD_shiftLeft, BitVec.getLsbD_ofNat, this]
  · have : j < k := by omega
    simp [BitVec.getLsbD_shiftLeft, hk, this]

/-- Every bit of a command word. -/
theorem getLsbD_commandWord (j : Nat) :
    (commandWord opc rd rs1 rs2 rd2 rd3).getLsbD j =
      ((decide (j < 8) && opc.getLsbD j) ||
        (decide (8 ≤ j) && decide (j < 11) && rd.val.testBit (j - 8)) ||
        (decide (12 ≤ j) && decide (j < 15) && rs1.val.testBit (j - 12)) ||
        (decide (16 ≤ j) && decide (j < 19) && rs2.val.testBit (j - 16)) ||
        (decide (20 ≤ j) && decide (j < 23) && rd2.val.testBit (j - 20)) ||
        (decide (24 ≤ j) && decide (j < 27) && rd3.val.testBit (j - 24))) := by
  unfold commandWord
  simp only [BitVec.getLsbD_or, getLsbD_regField]
  by_cases h : j < 64
  · by_cases h8 : j < 8
    · simp [h, h8]
    · simp [h, h8, BitVec.getLsbD_of_ge _ _ (Nat.le_of_not_lt h8)]
  · have : ¬ j < 8 ∧ ¬ j < 11 ∧ ¬ j < 15 ∧ ¬ j < 19 ∧ ¬ j < 23 ∧ ¬ j < 27 := by omega
    simp [h, this]

@[simp] theorem opcOf_commandWord : opcOf (commandWord opc rd rs1 rs2 rd2 rd3) = opc := by
  apply BitVec.eq_of_getLsbD_eq
  intro i hi
  have : ¬ 8 ≤ i ∧ ¬ 12 ≤ i ∧ ¬ 16 ≤ i ∧ ¬ 20 ≤ i ∧ ¬ 24 ≤ i := by omega
  simp [opcOf, getLsbD_commandWord, hi, this]

theorem extract_commandWord (k : Nat) (r : Fin 8)
    (h : ∀ i, i < 3 → (commandWord opc rd rs1 rs2 rd2 rd3).getLsbD (k + i) = r.val.testBit i) :
    (commandWord opc rd rs1 rs2 rd2 rd3).extractLsb' k 3 = BitVec.ofFin r := by
  apply BitVec.eq_of_getLsbD_eq
  intro i hi
  simp only [BitVec.getLsbD_extractLsb', hi, decide_true, Bool.true_and, h i hi]
  rfl

@[simp] theorem fieldsOf_commandWord :
    fieldsOf (commandWord opc rd rs1 rs2 rd2 rd3) =
      ⟨BitVec.ofFin rd, BitVec.ofFin rs1, BitVec.ofFin rs2, BitVec.ofFin rd2, BitVec.ofFin rd3⟩ := by
  unfold fieldsOf
  congr 1 <;> apply extract_commandWord <;> intro i hi <;>
    (obtain rfl | rfl | rfl : i = 0 ∨ i = 1 ∨ i = 2 := by omega) <;> rw [getLsbD_commandWord] <;> simp

@[simp] theorem reservedClear_commandWord : reservedClear (commandWord opc rd rs1 rs2 rd2 rd3) = true := by
  have h : (commandWord opc rd rs1 rs2 rd2 rd3).extractLsb' 27 5 = 0#5 := by
    apply BitVec.eq_of_getLsbD_eq
    intro i hi
    have : ¬ 27 + i < 8 ∧ ¬ 27 + i < 11 ∧ ¬ 27 + i < 15 ∧ ¬ 27 + i < 19 ∧ ¬ 27 + i < 23 ∧ ¬ 27 + i < 27 := by
      omega
    simp [getLsbD_commandWord, this]
  simp only [reservedClear, h, getLsbD_commandWord]
  simp

@[simp] theorem highHalf_commandWord : (commandWord opc rd rs1 rs2 rd2 rd3).extractLsb' 32 32 = 0#32 := by
  apply BitVec.eq_of_getLsbD_eq
  intro i hi
  have : ¬ 32 + i < 8 ∧ ¬ 32 + i < 11 ∧ ¬ 32 + i < 15 ∧ ¬ 32 + i < 19 ∧ ¬ 32 + i < 23 ∧ ¬ 32 + i < 27 := by
    omega
  simp [getLsbD_commandWord, this]

/-- Decoding a command word goes by its row (R86). -/
theorem decode_commandWord :
    decode (commandWord opc rd rs1 rs2 rd2 rd3) =
      decodeRow opc ⟨BitVec.ofFin rd, BitVec.ofFin rs1, BitVec.ofFin rs2, BitVec.ofFin rd2, BitVec.ofFin rd3⟩ := by
  simp [decode]

end

@[simp] theorem regOf_ofFin (r : Fin 8) : regOf (BitVec.ofFin r) = r := rfl

end Sys2Proof
end

