-- ==== Sys2Proof/Laws/Flags.lean ====
section
/-! SUPPORT. What each update of STATUS does to each of its fields (10_state.md R38). -/

namespace Sys2Proof.Machine

section
variable (st v : Word) (b : Bool) (e : BitVec 3) (k : ErrKind)

theorem getLsbD_one_shift (i j : Nat) (hi : i < 64) : (1#64 <<< i).getLsbD j = decide (i = j) := by
  rw [BitVec.getLsbD_shiftLeft, BitVec.getLsbD_ofNat]
  by_cases h : i = j
  · subst h
    simp [hi]
  · by_cases hj : j < i
    · simp [hj, h]
    · obtain ⟨k, hk⟩ : ∃ k, j - i = k + 1 := ⟨j - i - 1, by omega⟩
      simp [h, hk, Nat.testBit_succ]

theorem getLsbD_withBit (i j : Nat) (hi : i < 64) :
    (withBit st i b).getLsbD j = if i = j then b else st.getLsbD j := by
  unfold withBit
  by_cases h64 : j < 64
  · cases b <;> by_cases h : i = j <;>
      simp only [BitVec.getLsbD_or, BitVec.getLsbD_and, BitVec.getLsbD_not, getLsbD_one_shift _ _ hi, h, h64,
        if_true, if_false, decide_true, decide_false, Bool.false_eq_true] <;> simp [h64]
  · have : i ≠ j := by omega
    simp [BitVec.getLsbD_of_ge _ _ (Nat.le_of_not_lt h64), this]

theorem getLsbD_seven (j : Nat) : (7#64).getLsbD j = decide (j < 3) := by
  rcases j with _ | _ | _ | j <;> try rfl
  have : (7 : Nat).testBit (j + 3) = false := Nat.testBit_lt_two_pow (by
    have := Nat.one_le_two_pow (n := j)
    rw [Nat.pow_add]
    omega)
  rw [BitVec.getLsbD_ofNat, this]
  simp

theorem getLsbD_withErr (j : Nat) :
    (withErr st e).getLsbD j = if j < 3 then e.getLsbD j else st.getLsbD j := by
  unfold withErr
  by_cases h64 : j < 64
  · rw [BitVec.getLsbD_or, BitVec.getLsbD_and, BitVec.getLsbD_not, getLsbD_seven, BitVec.getLsbD_setWidth]
    by_cases h : j < 3
    · simp only [h, h64, if_true, decide_true]
      simp
    · have : e.getLsbD j = false := BitVec.getLsbD_of_ge _ _ (by omega)
      simp only [h, h64, if_false, decide_true, decide_false, this]
      simp
  · have : ¬ j < 3 := by omega
    simp [BitVec.getLsbD_of_ge _ _ (Nat.le_of_not_lt h64), this]

@[simp] theorem statusErr_withErr : statusErr (withErr st e) = e := by
  apply BitVec.eq_of_getLsbD_eq
  intro i hi
  simp [statusErr, getLsbD_withErr, hi]

@[simp] theorem statusExact_withErr : statusExact (withErr st e) = statusExact st := by
  simp only [statusExact, getLsbD_withErr]
  rfl

@[simp] theorem statusBusy_withErr : statusBusy (withErr st e) = statusBusy st := by
  simp only [statusBusy, getLsbD_withErr]
  rfl

@[simp] theorem statusSticky_withErr : statusSticky (withErr st e) = statusSticky st := by
  simp only [statusSticky, getLsbD_withErr]
  rfl

@[simp] theorem statusReserved_withErr : statusReserved (withErr st e) = statusReserved st := by
  apply BitVec.eq_of_getLsbD_eq
  intro i hi
  have : ¬ 6 + i < 3 := by omega
  simp only [statusReserved, BitVec.getLsbD_extractLsb', getLsbD_withErr, this, if_false]

theorem statusErr_withBit (i : Nat) (hi : i < 64) (h3 : 3 ≤ i) : statusErr (withBit st i b) = statusErr st := by
  apply BitVec.eq_of_getLsbD_eq
  intro j hj
  have : i ≠ j := by omega
  simp [statusErr, getLsbD_withBit _ _ _ _ hi, this]

theorem statusReserved_withBit (i : Nat) (hi : i < 6) : statusReserved (withBit st i b) = statusReserved st := by
  apply BitVec.eq_of_getLsbD_eq
  intro j hj
  have : i ≠ 6 + j := by omega
  simp [statusReserved, getLsbD_withBit _ _ _ _ (show i < 64 by omega), this]

@[simp] theorem statusErr_withExact : statusErr (withExact st b) = statusErr st :=
  statusErr_withBit _ _ _ (by omega) (by omega)
@[simp] theorem statusErr_withBusy : statusErr (withBusy st b) = statusErr st :=
  statusErr_withBit _ _ _ (by omega) (by omega)
@[simp] theorem statusErr_withSticky : statusErr (withSticky st b) = statusErr st :=
  statusErr_withBit _ _ _ (by omega) (by omega)

@[simp] theorem statusExact_withExact : statusExact (withExact st b) = b := by
  simp only [statusExact, withExact]
  rw [getLsbD_withBit _ _ _ _ (by omega)]
  rfl
@[simp] theorem statusExact_withBusy : statusExact (withBusy st b) = statusExact st := by
  simp only [statusExact, withBusy]
  rw [getLsbD_withBit _ _ _ _ (by omega)]
  rfl
@[simp] theorem statusExact_withSticky : statusExact (withSticky st b) = statusExact st := by
  simp only [statusExact, withSticky]
  rw [getLsbD_withBit _ _ _ _ (by omega)]
  rfl

@[simp] theorem statusBusy_withExact : statusBusy (withExact st b) = statusBusy st := by
  simp only [statusBusy, withExact]
  rw [getLsbD_withBit _ _ _ _ (by omega)]
  rfl
@[simp] theorem statusBusy_withBusy : statusBusy (withBusy st b) = b := by
  simp only [statusBusy, withBusy]
  rw [getLsbD_withBit _ _ _ _ (by omega)]
  rfl
@[simp] theorem statusBusy_withSticky : statusBusy (withSticky st b) = statusBusy st := by
  simp only [statusBusy, withSticky]
  rw [getLsbD_withBit _ _ _ _ (by omega)]
  rfl

@[simp] theorem statusSticky_withExact : statusSticky (withExact st b) = statusSticky st := by
  simp only [statusSticky, withExact]
  rw [getLsbD_withBit _ _ _ _ (by omega)]
  rfl
@[simp] theorem statusSticky_withBusy : statusSticky (withBusy st b) = statusSticky st := by
  simp only [statusSticky, withBusy]
  rw [getLsbD_withBit _ _ _ _ (by omega)]
  rfl
@[simp] theorem statusSticky_withSticky : statusSticky (withSticky st b) = b := by
  simp only [statusSticky, withSticky]
  rw [getLsbD_withBit _ _ _ _ (by omega)]
  rfl

@[simp] theorem statusReserved_withExact : statusReserved (withExact st b) = statusReserved st :=
  statusReserved_withBit _ _ _ (by omega)
@[simp] theorem statusReserved_withBusy : statusReserved (withBusy st b) = statusReserved st :=
  statusReserved_withBit _ _ _ (by omega)
@[simp] theorem statusReserved_withSticky : statusReserved (withSticky st b) = statusReserved st :=
  statusReserved_withBit _ _ _ (by omega)

@[simp] theorem statusErr_statusAfterOk : statusErr (statusAfterOk st) = 0 := by simp [statusAfterOk]
@[simp] theorem statusExact_statusAfterOk : statusExact (statusAfterOk st) = statusExact st := by
  simp [statusAfterOk]
@[simp] theorem statusBusy_statusAfterOk : statusBusy (statusAfterOk st) = false := by simp [statusAfterOk]
@[simp] theorem statusSticky_statusAfterOk : statusSticky (statusAfterOk st) = statusSticky st := by
  simp [statusAfterOk]
@[simp] theorem statusReserved_statusAfterOk : statusReserved (statusAfterOk st) = statusReserved st := by
  simp [statusAfterOk]

@[simp] theorem statusErr_statusAfterError : statusErr (statusAfterError k st) = errCode k := by
  simp [statusAfterError]
@[simp] theorem statusExact_statusAfterError : statusExact (statusAfterError k st) = statusExact st := by
  simp [statusAfterError]
@[simp] theorem statusBusy_statusAfterError : statusBusy (statusAfterError k st) = false := by
  simp [statusAfterError]
@[simp] theorem statusSticky_statusAfterError : statusSticky (statusAfterError k st) = true := by
  simp [statusAfterError]
@[simp] theorem statusReserved_statusAfterError : statusReserved (statusAfterError k st) = statusReserved st := by
  simp [statusAfterError]

/-- A host write of STATUS touches ESTICKY only (R42). -/
theorem statusSticky_statusAfterHostWrite :
    statusSticky (statusAfterHostWrite st v) = (statusSticky st && !v.getLsbD 5) := by
  unfold statusAfterHostWrite
  split <;> simp_all

@[simp] theorem statusErr_statusAfterHostWrite : statusErr (statusAfterHostWrite st v) = statusErr st := by
  unfold statusAfterHostWrite
  split <;> simp
@[simp] theorem statusExact_statusAfterHostWrite : statusExact (statusAfterHostWrite st v) = statusExact st := by
  unfold statusAfterHostWrite
  split <;> simp
@[simp] theorem statusBusy_statusAfterHostWrite : statusBusy (statusAfterHostWrite st v) = statusBusy st := by
  unfold statusAfterHostWrite
  split <;> simp
@[simp] theorem statusReserved_statusAfterHostWrite :
    statusReserved (statusAfterHostWrite st v) = statusReserved st := by
  unfold statusAfterHostWrite
  split <;> simp

/-- Every error code but OK is the code of one kind, so a code names its kind (60_exceptions.md R240). -/
theorem errCode_injective : ∀ a b : ErrKind, errCode a = errCode b → a = b := by
  intro a b
  cases a <;> cases b <;> decide

theorem errCode_ne_zero : errCode k ≠ 0 := by cases k <;> decide

end

end Sys2Proof.Machine
end

