-- ==== Sys2Proof/Laws/State.lean ====
section
/-! SUPPORT. One lemma per field per update of a State, and the laws of register reads after writes. -/

namespace Sys2Proof.Machine

section
variable (s : State) (i j : Fin 8) (v : Word) (x : RatReg)

@[simp] theorem writeG_g : (writeG s i v).g = s.g.set i v := rfl
@[simp] theorem writeG_q : (writeG s i v).q = s.q := rfl
@[simp] theorem writeG_status : (writeG s i v).status = s.status := rfl
@[simp] theorem writeG_cmd : (writeG s i v).cmd = s.cmd := rfl
@[simp] theorem writeG_engine : (writeG s i v).engine = s.engine := rfl
@[simp] theorem writeG_inputs : (writeG s i v).inputs = s.inputs := rfl
@[simp] theorem writeG_returned : (writeG s i v).returned = s.returned := rfl

@[simp] theorem writeQ_g : (writeQ s i x).g = s.g := rfl
@[simp] theorem writeQ_q : (writeQ s i x).q = s.q.set i x := rfl
@[simp] theorem writeQ_status : (writeQ s i x).status = s.status := rfl
@[simp] theorem writeQ_cmd : (writeQ s i x).cmd = s.cmd := rfl
@[simp] theorem writeQ_engine : (writeQ s i x).engine = s.engine := rfl
@[simp] theorem writeQ_inputs : (writeQ s i x).inputs = s.inputs := rfl
@[simp] theorem writeQ_returned : (writeQ s i x).returned = s.returned := rfl

@[simp] theorem completeOk_g : (completeOk s).g = s.g := rfl
@[simp] theorem completeOk_q : (completeOk s).q = s.q := rfl
@[simp] theorem completeOk_status : (completeOk s).status = statusAfterOk s.status := rfl
@[simp] theorem completeOk_cmd : (completeOk s).cmd = s.cmd := rfl
@[simp] theorem completeOk_engine : (completeOk s).engine = .idle := rfl
@[simp] theorem completeOk_inputs : (completeOk s).inputs = s.inputs := rfl
@[simp] theorem completeOk_returned : (completeOk s).returned = s.returned := rfl

variable (e : ErrKind)

@[simp] theorem completeError_g : (completeError e s).g = s.g := rfl
@[simp] theorem completeError_q : (completeError e s).q = s.q := rfl
@[simp] theorem completeError_status : (completeError e s).status = statusAfterError e s.status := rfl
@[simp] theorem completeError_cmd : (completeError e s).cmd = s.cmd := rfl
@[simp] theorem completeError_engine : (completeError e s).engine = .idle := rfl
@[simp] theorem completeError_inputs : (completeError e s).inputs = s.inputs := rfl
@[simp] theorem completeError_returned : (completeError e s).returned = s.returned := rfl

@[simp] theorem readG_reset : readG State.reset i = 0 := by
  simp [readG, State.reset]

@[simp] theorem readQ_reset : readQ State.reset i = ⟨0, 0⟩ := by
  simp [readQ, State.reset]

/-- A read of G after a write of G. -/
theorem readG_writeG : readG (writeG s i v) j = if i = j then v else readG s j := by
  simp [readG, writeG, Vector.getElem_set, Fin.ext_iff]

@[simp] theorem readG_writeG_same : readG (writeG s i v) i = v := by simp [readG_writeG]

/-- A write of one G register leaves every other one alone. -/
theorem readG_writeG_ne (h : i ≠ j) : readG (writeG s i v) j = readG s j := by simp [readG_writeG, h]

@[simp] theorem readQ_writeG : readQ (writeG s i v) j = readQ s j := rfl

/-- A read of Q after a write of Q. -/
theorem readQ_writeQ : readQ (writeQ s i x) j = if i = j then x else readQ s j := by
  simp [readQ, writeQ, Vector.getElem_set, Fin.ext_iff]

@[simp] theorem readQ_writeQ_same : readQ (writeQ s i x) i = x := by simp [readQ_writeQ]

/-- A write of one Q register leaves every other one alone. -/
theorem readQ_writeQ_ne (h : i ≠ j) : readQ (writeQ s i x) j = readQ s j := by simp [readQ_writeQ, h]

@[simp] theorem readG_writeQ : readG (writeQ s i x) j = readG s j := rfl

end

end Sys2Proof.Machine
end

