-- ==== Sys2Proof/Laws/Ops.lean ====
section
/-! SUPPORT. One lemma per shared operation that says what it can do: how commands end (30_encoding.md R90), the operand
check (R92), and reduction (41_construct.md R120). -/

namespace Sys2Proof.Machine

section
variable {s t u : State} {g : Vector Word 8} {q : Vector RatReg 8} {b : Bool}

/-- `raise` ends as R243 says. -/
theorem failed_completeError (e : ErrKind) (s : State) : Failed s (completeError e s) e := by
  constructor <;> simp

/-- `finish` after writing only G, Q and EXACT ends as R93 says. -/
theorem done_completeOk (hg : u.g = g) (hq : u.q = q) (hst : u.status = s.status ∨ u.status = withExact s.status b)
    (hb : statusExact u.status = b) (hc : u.cmd = s.cmd) (hi : u.inputs = s.inputs) (hr : u.returned = s.returned) :
    Done s (completeOk u) g q b := by
  constructor <;> simp [*]
  all_goals rcases hst with h | h <;> simp [h]

theorem done_writeG (s : State) (rd : GReg) (v : Word) :
    Done s (completeOk (writeG s rd v)) (s.g.set rd v) s.q (statusExact s.status) :=
  done_completeOk rfl rfl (.inl rfl) rfl rfl rfl rfl

theorem done_writeQ (s : State) (rd : QReg) (x : RatReg) :
    Done s (completeOk (writeQ s rd x)) s.g (s.q.set rd x) (statusExact s.status) :=
  done_completeOk rfl rfl (.inl rfl) rfl rfl rfl rfl

/-- The operand check passes. -/
theorem checkQ_valid {x : RatReg} {rule : Ratio → Result} (h : x.valid = true) :
    checkQ x s rule = rule x.toRatio := by simp [checkQ, h]

/-- The operand check fails (R92). -/
theorem checkQ_invalid {x : RatReg} {rule : Ratio → Result} (h : x.valid = false) :
    checkQ x s rule = .next (completeError .operandInvalid s) := by simp [checkQ, h, raise]

theorem checkQQ_valid {x y : RatReg} {rule : Ratio → Ratio → Result} (hx : x.valid = true) (hy : y.valid = true) :
    checkQQ x y s rule = rule x.toRatio y.toRatio := by simp [checkQQ, checkQ, hx, hy]

theorem checkQQ_invalid {x y : RatReg} {rule : Ratio → Ratio → Result} (h : x.valid = false ∨ y.valid = false) :
    checkQQ x y s rule = .next (completeError .operandInvalid s) := by
  unfold checkQQ
  cases hx : x.valid
  · exact checkQ_invalid hx
  · rw [checkQ_valid hx, checkQ_invalid (by simpa [hx] using h)]

/-- What the operand check can do. -/
theorem checkQ_cases {x : RatReg} {rule : Ratio → Result} (h : checkQ x s rule = .next t) :
    (x.valid = true ∧ rule x.toRatio = .next t) ∨ (x.valid = false ∧ t = completeError .operandInvalid s) := by
  cases hx : x.valid
  · rw [checkQ_invalid hx] at h
    exact .inr ⟨rfl, (Host.Outcome.next.inj h).symm⟩
  · rw [checkQ_valid hx] at h
    exact .inl ⟨rfl, h⟩

/-- What the operand check of two sources can do. -/
theorem checkQQ_cases {x y : RatReg} {rule : Ratio → Ratio → Result} (h : checkQQ x y s rule = .next t) :
    (x.valid = true ∧ y.valid = true ∧ rule x.toRatio y.toRatio = .next t) ∨
      ((x.valid = false ∨ y.valid = false) ∧ t = completeError .operandInvalid s) := by
  rcases checkQ_cases h with ⟨hx, h⟩ | ⟨hx, rfl⟩
  · rcases checkQ_cases h with ⟨hy, h⟩ | ⟨hy, rfl⟩
    · exact .inl ⟨hx, hy, h⟩
    · exact .inr ⟨.inr hy, rfl⟩
  · exact .inr ⟨.inl hx, rfl⟩

/-- What the end of a rule with a pair or an error can do. -/
theorem finishRatio_cases {rd : QReg} {r : Except ErrKind Ratio} (h : finishRatio rd r s = .next t) :
    (∃ p, r = .ok p ∧ t = completeOk (writeQ s rd (storeRatio p))) ∨ (∃ e, r = .error e ∧ t = completeError e s) := by
  cases r with
  | ok p => exact .inl ⟨p, rfl, (Host.Outcome.next.inj h).symm⟩
  | error e => exact .inr ⟨e, rfl, (Host.Outcome.next.inj h).symm⟩

end

section
variable {n d : Int}

/-- The denominator test of R120 comes first. -/
theorem reduce_of_nonpos (h : d ≤ 0) : reduce n d = .error .denominatorInvalid := by simp [reduce, h]

/-- R120: zero becomes canonical zero. -/
theorem reduce_zero (h : 0 < d) : reduce 0 d = .ok ⟨0, 1⟩ := by simp [reduce, not_le.mpr h]

/-- R120 with a positive denominator and a nonzero numerator. -/
theorem reduce_of_pos (hd : 0 < d) (hn : n ≠ 0) :
    reduce n d = if n / (Int.gcd n d : Int) = MIN then .error .numeratorOverflow
      else .ok ⟨n / (Int.gcd n d : Int), d / (Int.gcd n d : Int)⟩ := by
  simp [reduce, not_le.mpr hd, hn]

/-- A pair that is already reduced is its own reduction. -/
theorem reduce_of_coprime (hd : 0 < d) (hn : n ≠ 0) (hg : Int.gcd n d = 1) (hm : n ≠ MIN) :
    reduce n d = .ok ⟨n, d⟩ := by
  simp [reduce_of_pos hd hn, hg, hm]

/-- The four conditions of 10_state.md R35. -/
theorem ratio_valid_iff (r : Ratio) :
    r.valid = true ↔ 1 ≤ r.den ∧ r.den ≤ MAX ∧ r.num ≠ MIN ∧ (r.num = 0 → r.den = 1) ∧
      (r.num ≠ 0 → Int.gcd r.num r.den = 1) := by
  unfold Ratio.valid
  by_cases h : r.num = 0 <;> simp [h] <;> tauto

end

end Sys2Proof.Machine
end

