-- ==== Sys2Proof/Laws/PerInstr.lean ====
section
/-! SUPPORT. Per-instruction family: every encoded command has the format C32 (30_encoding.md R80, R81). -/

namespace Sys2Proof.Laws.EncodeFormat

/-- CMD[63:32] and the reserved bits of R81 are 0 in the command's encoding. -/
def Statement (i : Instr) : Prop := (encode i).extractLsb' 32 32 = 0#32 ∧ reservedClear (encode i) = true

theorem nop : Statement .nop := by simp [Statement, encode]
theorem xgcd (rd rs1 rs2 rd2 rd3 : GReg) : Statement (.xgcd rd rs1 rs2 rd2 rd3) := by simp [Statement, encode]
theorem gcd (rd rs1 rs2 : GReg) : Statement (.gcd rd rs1 rs2) := by simp [Statement, encode]
theorem qnew (rd : QReg) (rs1 rs2 : GReg) : Statement (.qnew rd rs1 rs2) := by simp [Statement, encode]
theorem qvalid (rd : GReg) (rs1 : QReg) : Statement (.qvalid rd rs1) := by simp [Statement, encode]
theorem qnum (rd : GReg) (rs1 : QReg) : Statement (.qnum rd rs1) := by simp [Statement, encode]
theorem qden (rd : GReg) (rs1 : QReg) : Statement (.qden rd rs1) := by simp [Statement, encode]
theorem qsgn (rd : GReg) (rs1 : QReg) : Statement (.qsgn rd rs1) := by simp [Statement, encode]
theorem qisz (rd : GReg) (rs1 : QReg) : Statement (.qisz rd rs1) := by simp [Statement, encode]
theorem qmov (rd rs1 : QReg) : Statement (.qmov rd rs1) := by simp [Statement, encode]
theorem qadd (rd rs1 rs2 : QReg) : Statement (.qadd rd rs1 rs2) := by simp [Statement, encode]
theorem qsub (rd rs1 rs2 : QReg) : Statement (.qsub rd rs1 rs2) := by simp [Statement, encode]
theorem qmul (rd rs1 rs2 : QReg) : Statement (.qmul rd rs1 rs2) := by simp [Statement, encode]
theorem qdiv (rd rs1 rs2 : QReg) : Statement (.qdiv rd rs1 rs2) := by simp [Statement, encode]
theorem qinv (rd rs1 : QReg) : Statement (.qinv rd rs1) := by simp [Statement, encode]
theorem qneg (rd rs1 : QReg) : Statement (.qneg rd rs1) := by simp [Statement, encode]
theorem qabs (rd rs1 : QReg) : Statement (.qabs rd rs1) := by simp [Statement, encode]
theorem qcmp (rd : GReg) (rs1 rs2 : QReg) : Statement (.qcmp rd rs1 rs2) := by simp [Statement, encode]
theorem q2f (rd : GReg) (rs1 : QReg) : Statement (.q2f rd rs1) := by simp [Statement, encode]
theorem f2q (rd : QReg) (rs1 : GReg) : Statement (.f2q rd rs1) := by simp [Statement, encode]

end Sys2Proof.Laws.EncodeFormat
end

