-- ==== Sys2Proof/Laws/Port.lean ====
section
/-! SUPPORT. The register map (20_memory.md R62), the fields each port operation changes, and what one step can do. -/

namespace Sys2Proof.Machine

theorem portReg_g : ∀ i : GReg, portReg (8 * i.val) = some (.g i) := by decide
theorem portReg_qn : ∀ i : QReg, portReg (0x40 + 16 * i.val) = some (.qn i) := by decide
theorem portReg_qdb : ∀ i : QReg, portReg (0x48 + 16 * i.val) = some (.qdb i) := by decide
theorem portReg_cmd : portReg 0xC0 = some .cmd := by decide
theorem portReg_status : portReg 0xC8 = some .status := by decide
theorem portReg_reserved : ∀ k : Fin 6, portReg (0xD0 + 8 * k.val) = some .reserved := by decide

/-- The offsets that are not admitted (R64). -/
theorem portReg_none_iff (off : Nat) : portReg off = none ↔ off % 8 ≠ 0 ∨ 0xFF < off := by
  unfold portReg
  split
  · simp_all
  · rename_i h
    simp only [h, iff_false]
    repeat' split
    all_goals simp

/-- CMD has the one offset 0xC0 (R62). -/
theorem portReg_eq_cmd_iff (off : Nat) : portReg off = some .cmd ↔ off = 0xC0 := by
  unfold portReg
  repeat' split
  all_goals simp_all
  all_goals omega

/-- STATUS has the one offset 0xC8 (R62). -/
theorem portReg_eq_status_iff (off : Nat) : portReg off = some .status ↔ off = 0xC8 := by
  unfold portReg
  repeat' split
  all_goals simp_all
  all_goals omega

/-- The one access the port performs while BUSY = 1 (R66). -/
theorem isStatusRead_iff (a : HostAccess) : isStatusRead a = true ↔ a = ⟨0xC8, 8, .read⟩ := by
  rcases a with ⟨off, bytes, kind⟩
  by_cases hb : bytes = 8 <;> simp [isStatusRead, admittedReg, hb, portReg_eq_status_iff]

section
variable (s : State) (v w : Word) (n : Nat)

@[simp] theorem startCommand_g : (startCommand v s).g = s.g := rfl
@[simp] theorem startCommand_q : (startCommand v s).q = s.q := rfl
@[simp] theorem startCommand_status : (startCommand v s).status = withBusy s.status true := rfl
@[simp] theorem startCommand_cmd : (startCommand v s).cmd = v := rfl
@[simp] theorem startCommand_engine :
    (startCommand v s).engine = .executing (Config.extraCycles v (commandWords v s)) := rfl
@[simp] theorem startCommand_inputs : (startCommand v s).inputs = s.inputs := rfl
@[simp] theorem startCommand_returned : (startCommand v s).returned = s.returned := rfl

@[simp] theorem returnWord_g : (returnWord w s).g = s.g := rfl
@[simp] theorem returnWord_q : (returnWord w s).q = s.q := rfl
@[simp] theorem returnWord_status : (returnWord w s).status = s.status := rfl
@[simp] theorem returnWord_cmd : (returnWord w s).cmd = s.cmd := rfl
@[simp] theorem returnWord_engine : (returnWord w s).engine = s.engine := rfl
@[simp] theorem returnWord_inputs : (returnWord w s).inputs = s.inputs := rfl
@[simp] theorem returnWord_returned : (returnWord w s).returned = s.returned ++ [w] := rfl

@[simp] theorem resetCycle_g : (resetCycle s).g = State.reset.g := rfl
@[simp] theorem resetCycle_q : (resetCycle s).q = State.reset.q := rfl
@[simp] theorem resetCycle_status : (resetCycle s).status = 0 := rfl
@[simp] theorem resetCycle_cmd : (resetCycle s).cmd = 0 := rfl
@[simp] theorem resetCycle_engine : (resetCycle s).engine = .idle := rfl
@[simp] theorem resetCycle_inputs : (resetCycle s).inputs = s.inputs.tail := rfl
@[simp] theorem resetCycle_returned : (resetCycle s).returned = s.returned := rfl

@[simp] theorem placeCommand_g : (placeCommand v s).g = s.g := rfl
@[simp] theorem placeCommand_q : (placeCommand v s).q = s.q := rfl
@[simp] theorem placeCommand_status : (placeCommand v s).status = withBusy s.status true := rfl
@[simp] theorem placeCommand_cmd : (placeCommand v s).cmd = v := rfl
@[simp] theorem placeCommand_engine : (placeCommand v s).engine = .executing 0 := rfl
@[simp] theorem placeCommand_inputs : (placeCommand v s).inputs = s.inputs.dropWhile (· == .reset) := rfl
@[simp] theorem placeCommand_returned : (placeCommand v s).returned = s.returned := rfl

/-- What the port can do in a cycle of an executing command (R66): serve a read of STATUS, hold an access, or, with no
access, pass to the next entry. -/
theorem busyPort_cases :
    (∃ a rest, s.inputs = .access a :: rest ∧ isStatusRead a = true ∧
        busyPort s = { returnWord s.status s with inputs := rest }) ∨
      (∃ a rest, s.inputs = .access a :: rest ∧ isStatusRead a = false ∧ busyPort s = s) ∨
      ((∀ a rest, s.inputs ≠ .access a :: rest) ∧ busyPort s = { s with inputs := s.inputs.tail }) := by
  unfold busyPort
  split
  · rename_i a rest h
    cases hr : isStatusRead a
    · exact .inr (.inl ⟨a, rest, h, hr, by simp⟩)
    · exact .inl ⟨a, rest, h, hr, by simp⟩
  · rename_i h
    exact .inr (.inr ⟨h, rfl⟩)

/-- The port's part of the cycle changes no register (R66). -/
@[simp] theorem busyPort_g : (busyPort s).g = s.g := by
  rcases busyPort_cases s with ⟨_, _, _, _, h⟩ | ⟨_, _, _, _, h⟩ | ⟨_, h⟩ <;> simp [h]
@[simp] theorem busyPort_q : (busyPort s).q = s.q := by
  rcases busyPort_cases s with ⟨_, _, _, _, h⟩ | ⟨_, _, _, _, h⟩ | ⟨_, h⟩ <;> simp [h]
@[simp] theorem busyPort_status : (busyPort s).status = s.status := by
  rcases busyPort_cases s with ⟨_, _, _, _, h⟩ | ⟨_, _, _, _, h⟩ | ⟨_, h⟩ <;> simp [h]
@[simp] theorem busyPort_cmd : (busyPort s).cmd = s.cmd := by
  rcases busyPort_cases s with ⟨_, _, _, _, h⟩ | ⟨_, _, _, _, h⟩ | ⟨_, h⟩ <;> simp [h]
@[simp] theorem busyPort_engine : (busyPort s).engine = s.engine := by
  rcases busyPort_cases s with ⟨_, _, _, _, h⟩ | ⟨_, _, _, _, h⟩ | ⟨_, h⟩ <;> simp [h]

@[simp] theorem waitCycle_g : (waitCycle n s).g = s.g := busyPort_g s
@[simp] theorem waitCycle_q : (waitCycle n s).q = s.q := busyPort_q s
@[simp] theorem waitCycle_status : (waitCycle n s).status = s.status := busyPort_status s
@[simp] theorem waitCycle_cmd : (waitCycle n s).cmd = s.cmd := busyPort_cmd s
@[simp] theorem waitCycle_engine : (waitCycle n s).engine = .executing n := rfl
@[simp] theorem waitCycle_inputs : (waitCycle n s).inputs = (busyPort s).inputs := rfl
@[simp] theorem waitCycle_returned : (waitCycle n s).returned = (busyPort s).returned := rfl

end

section
variable {s t : State}

/-- What one access can do. -/
theorem performAccess_cases {a : HostAccess} (h : performAccess a s = .next t) :
    ∃ r, admittedReg a = some r ∧
      ((a.kind = .read ∧ t = returnWord (readPort s r) s) ∨ (∃ v, a.kind = .write v ∧ t = writePort r v s)) := by
  unfold performAccess at h
  split at h
  · cases h
  · rename_i r hr
    refine ⟨r, hr, ?_⟩
    split at h
    · rename_i hk
      exact .inl ⟨hk, (Host.Outcome.next.inj h).symm⟩
    · rename_i v hk
      exact .inr ⟨v, hk, (Host.Outcome.next.inj h).symm⟩

/-- What an idle cycle that answers a next state can do (R30, R67). -/
theorem idleCycle_cases (h : idleCycle s = .next t) :
    (∃ a rest, s.inputs = .access a :: rest ∧ performAccess a { s with inputs := rest } = .next t) ∨
      ((∀ a rest, s.inputs ≠ .access a :: rest) ∧ t = { s with inputs := s.inputs.tail }) := by
  unfold idleCycle at h
  split at h
  · rename_i a rest hi
    exact .inl ⟨a, rest, hi, h⟩
  · rename_i hi
    exact .inr ⟨hi, (Host.Outcome.next.inj h).symm⟩

/-- What a completing cycle that answers a next state can do (30_encoding.md R90). -/
theorem completeCycle_cases (h : completeCycle s = .next t) :
    (∃ i, decode (fetchCommand s) = .ok i ∧ exec i (busyPort s) = .next t) ∨
      (∃ e, decode (fetchCommand s) = .error e ∧ t = completeError .illegalCommand (busyPort s)) := by
  unfold completeCycle at h
  split at h
  · rename_i i hi
    exact .inl ⟨i, hi, h⟩
  · rename_i e he
    exact .inr ⟨e, he, (Host.Outcome.next.inj h).symm⟩

/-- What one step that answers a next state can do. -/
theorem step_cases (h : step s = .next t) :
    (resetAsserted s = true ∧ t = resetCycle s) ∨
      (resetAsserted s = false ∧ s.engine = .idle ∧ idleCycle s = .next t) ∨
      (∃ n, resetAsserted s = false ∧ s.engine = .executing (n + 1) ∧ t = waitCycle n s) ∨
      (resetAsserted s = false ∧ s.engine = .executing 0 ∧ completeCycle s = .next t) := by
  unfold step at h
  split at h
  · rename_i hr
    exact .inl ⟨hr, (Host.Outcome.next.inj h).symm⟩
  · rename_i hr
    simp only [Bool.not_eq_true] at hr
    split at h
    · rename_i he
      exact .inr (.inl ⟨hr, he, h⟩)
    · rename_i n he
      exact .inr (.inr (.inl ⟨n, hr, he, (Host.Outcome.next.inj h).symm⟩))
    · rename_i he
      exact .inr (.inr (.inr ⟨hr, he, h⟩))

end

end Sys2Proof.Machine
end

