-- ==== Sys2Proof/Tests/Slice0.lean ====
section
/-! SUPPORT. Tests: the checks of WellFormed, the words of every command, one or two vectors of 95_test_vectors.md for
each command, the port, and for each statement a state and operands that meet its hypotheses. -/

namespace Sys2Proof.Tests

open Sys2Proof Sys2Proof.Machine

/-! ## WellFormed: an ill-formed term for each check -/

theorem test_wf_refuses_rd_eq_rd2 : wellFormed (.xgcd 2 0 1 2 4) = false := by decide
theorem test_wf_refuses_rd_eq_rd3 : wellFormed (.xgcd 2 0 1 3 2) = false := by decide
theorem test_wf_refuses_rd2_eq_rd3 : wellFormed (.xgcd 2 0 1 3 3) = false := by decide
theorem test_wf_accepts_source_as_dest : wellFormed (.xgcd 0 0 1 2 3) = true := by decide

/-! ## Decoding: words of 30_encoding.md R89 and of the examples of the command rules -/

theorem test_decode_nop : decode 0x00000000#64 = .ok .nop := by decide
theorem test_decode_xgcd : decode 0x04310201#64 = .ok (.xgcd 2 0 1 3 4) := by decide
theorem test_decode_gcd : decode 0x00010202#64 = .ok (.gcd 2 0 1) := by decide
theorem test_decode_qnew : decode 0x00020110#64 = .ok (.qnew 1 0 2) := by decide
theorem test_decode_qvalid : decode 0x00001011#64 = .ok (.qvalid 0 1) := by decide
theorem test_decode_qnum : decode 0x00002412#64 = .ok (.qnum 4 2) := by decide
theorem test_decode_qden : decode 0x00002513#64 = .ok (.qden 5 2) := by decide
theorem test_decode_qsgn : decode 0x00000114#64 = .ok (.qsgn 1 0) := by decide
theorem test_decode_qisz : decode 0x00007015#64 = .ok (.qisz 0 7) := by decide
theorem test_decode_qmov : decode 0x00000116#64 = .ok (.qmov 1 0) := by decide
theorem test_decode_qadd : decode 0x00010220#64 = .ok (.qadd 2 0 1) := by decide
theorem test_decode_qsub : decode 0x00010221#64 = .ok (.qsub 2 0 1) := by decide
theorem test_decode_qmul : decode 0x00010222#64 = .ok (.qmul 2 0 1) := by decide
theorem test_decode_qdiv : decode 0x00010223#64 = .ok (.qdiv 2 0 1) := by decide
theorem test_decode_qinv : decode 0x00000124#64 = .ok (.qinv 1 0) := by decide
theorem test_decode_qneg : decode 0x00000125#64 = .ok (.qneg 1 0) := by decide
theorem test_decode_qabs : decode 0x00000126#64 = .ok (.qabs 1 0) := by decide
theorem test_decode_qcmp : decode 0x00010027#64 = .ok (.qcmp 0 0 1) := by decide
theorem test_decode_q2f : decode 0x00000130#64 = .ok (.q2f 1 0) := by decide
theorem test_decode_f2q : decode 0x00005031#64 = .ok (.f2q 0 5) := by decide

/-- The vectors V44_2, V44_5, V44_6, V44_8, V44_9 and V44_11, each refused for its reason. -/
theorem test_decode_refuses_by_name :
    decode 0xFF#64 = .error (.unassignedOpcode 0xFF) ∧ decode 0x100#64 = .error .unusedField ∧
      decode 0x00010820#64 = .error .reservedBit ∧ decode 0x04210201#64 = .error .equalDestinations ∧
      decode 0x80000000#64 = .error .reservedBit ∧ decode 0x100000020#64 = .error .highHalf := by decide

/-- No two rows of the opcode table share a word (30_encoding.md R86). -/
theorem test_rows_do_not_overlap :
    opcodeTable.Pairwise (fun r r' => r.mask &&& r'.mask &&& (r.bits ^^^ r'.bits) ≠ 0#32) := by decide

theorem test_decodeTableWord : decodeTableWord 32 0x00010220 = some (.qadd 2 0 1) := by decide

/-- The examples of 30_encoding.md R89. -/
theorem test_asm : asm (.qadd 2 0 1) = "QADD q2, q0, q1" ∧ asm (.xgcd 2 0 1 3 4) = "XGCD g2, g0, g1, g3, g4" ∧
    asm .nop = "NOP" := by decide +kernel

/-! ## Helpers -/

/-- Reset with the given G registers. -/
def withG (l : List (GReg × Word)) : State := l.foldl (fun s p => writeG s p.1 p.2) State.reset

/-- A valid register holding n/d. -/
def rat (n d : Int) : RatReg := storeRatio ⟨n, d⟩

/-- Reset with the given Q registers. -/
def withQ (l : List (QReg × RatReg)) : State := l.foldl (fun s p => writeQ s p.1 p.2) State.reset

/-- Does the command answer a next state of which `p` holds? -/
def runs (i : Instr) (s : State) (p : State → Bool) : Bool :=
  match exec i s with
  | .next t => p t
  | _ => false

/-- Does the command report the code `e` and leave G and Q as they were? -/
def fails (i : Instr) (s : State) (e : BitVec 3) : Bool :=
  runs i s fun t => statusErr t.status == e && statusSticky t.status && t.g == s.g && t.q == s.q

/-- Does the command leave `x` in `Q[rd]` with ERR 0? -/
def givesQ (i : Instr) (s : State) (rd : QReg) (x : RatReg) : Bool :=
  runs i s fun t => readQ t rd == x && statusErr t.status == 0

/-- Does the command leave `v` in `G[rd]` with ERR 0? -/
def givesG (i : Instr) (s : State) (rd : GReg) (v : Word) : Bool :=
  runs i s fun t => readG t rd == v && statusErr t.status == 0

/-! ## One step of each command (95_test_vectors.md, by its vector's number) -/

/-- 44_system.md R230, example: ERR 3 is cleared, ESTICKY and EXACT stay. -/
theorem test_nop : runs .nop { State.reset with status := 0x2B } (fun t => t.status == 0x28) = true := by decide
/-- V40_3. -/
theorem test_xgcd_negative : runs (.xgcd 2 0 1 3 4) (withG [(0, -240), (1, 46)])
    (fun t => readG t 2 == 2 && readG t 3 == 9 && readG t 4 == 47) = true := by decide
/-- V40_14, the longest loop. -/
theorem test_xgcd_fibonacci : runs (.xgcd 2 0 1 3 4) (withG [(0, 7540113804746346429), (1, 4660046610375530309)])
    (fun t => readG t 2 == 1 && readG t 3 == 1779979416004714189 && readG t 4 == -2880067194370816120) = true := by
  decide
/-- V40_20. -/
theorem test_gcd_negative : givesG (.gcd 2 0 1) (withG [(0, -12), (1, 18)]) 2 6 = true := by decide
/-- V40_24. -/
theorem test_gcd_min : fails (.gcd 2 0 1) (withG [(0, 0x8000000000000000), (1, 1)]) 6 = true := by decide
/-- V41_9. -/
theorem test_qnew_min_even : givesQ (.qnew 0 0 1) (withG [(0, 0x8000000000000000), (1, 2)]) 0
    ⟨0xC000000000000000, 0⟩ = true := by decide
/-- V41_6. -/
theorem test_qnew_bad_denominator : fails (.qnew 0 0 1) (withG [(1, -3)]) 1 = true := by decide
/-- V41_21 (90_conflicts.md C4). -/
theorem test_qvalid_den_2_63 : givesG (.qvalid 0 1) (withQ [(1, ⟨1, 0x7FFFFFFFFFFFFFFF⟩)]) 0 0 = true := by decide
/-- V41_23. -/
theorem test_qvalid_den_max : givesG (.qvalid 0 1) (withQ [(1, ⟨5, 0x7FFFFFFFFFFFFFFE⟩)]) 0 1 = true := by decide
/-- V41_27. -/
theorem test_qnum : givesG (.qnum 4 2) (withQ [(2, rat (-3) 2)]) 4 (-3) = true := by decide
/-- V41_35. -/
theorem test_qden : givesG (.qden 4 2) (withQ [(2, ⟨5, 0x7FFFFFFFFFFFFFFE⟩)]) 4 0x7FFFFFFFFFFFFFFF = true := by decide
/-- V41_42. -/
theorem test_qsgn : givesG (.qsgn 4 2) (withQ [(2, rat (-1) MAX)]) 4 0xFFFFFFFFFFFFFFFF = true := by decide
/-- V41_46. -/
theorem test_qisz : givesG (.qisz 4 2) State.reset 4 1 = true := by decide
/-- V41_51. -/
theorem test_qmov_invalid : givesQ (.qmov 1 0) (withQ [(0, ⟨2, 1⟩)]) 1 ⟨2, 1⟩ = true := by decide
/-- V42_18. -/
theorem test_qadd_in_place : givesQ (.qadd 0 0 0) (withQ [(0, rat 1 3)]) 0 (rat 2 3) = true := by decide
/-- V42_16: the exact sum MAX/1 fits, and the command reports the overflow (42_arith.md R157). -/
theorem test_qadd_spurious : fails (.qadd 2 0 1) (withQ [(0, rat MAX 2), (1, rat MAX 2)]) 3 = true := by decide
/-- V42_21. -/
theorem test_qsub_zero : givesQ (.qsub 2 0 1) (withQ [(1, rat 2 9)]) 2 (rat (-2) 9) = true := by decide
/-- V42_23. -/
theorem test_qsub_overflow : fails (.qsub 2 0 1) (withQ [(0, rat (-MAX) 1), (1, rat 1 1)]) 3 = true := by decide
/-- V42_37. -/
theorem test_qmul_cancels : givesQ (.qmul 2 0 1) (withQ [(0, rat (-MAX) 2), (1, rat 2 MAX)]) 2 (rat (-1) 1) = true := by
  decide
/-- V42_34. -/
theorem test_qmul_denominator : fails (.qmul 2 0 1) (withQ [(0, rat 1 (2 ^ 32)), (1, rat 1 (2 ^ 32))]) 2 = true := by
  decide
/-- V42_41. -/
theorem test_qdiv_sign : givesQ (.qdiv 2 0 1) (withQ [(0, rat 1 2), (1, rat (-1) 3)]) 2 (rat (-3) 2) = true := by decide
/-- V42_47. -/
theorem test_qdiv_invalid_before_zero : fails (.qdiv 2 0 1) (withQ [(0, ⟨0, 1⟩)]) 6 = true := by decide
/-- V42_50. -/
theorem test_qinv_sign : givesQ (.qinv 1 0) (withQ [(0, rat (-5) 1)]) 1 (rat (-1) 5) = true := by decide
/-- V42_53. -/
theorem test_qinv_zero : fails (.qinv 1 0) State.reset 4 = true := by decide
/-- V42_58. -/
theorem test_qneg_in_place : givesQ (.qneg 1 1) (withQ [(1, rat (-5) 3)]) 1 (rat 5 3) = true := by decide
/-- V42_61. -/
theorem test_qabs : givesQ (.qabs 1 0) (withQ [(0, rat (-MAX) 1)]) 1 (rat MAX 1) = true := by decide
/-- V42_69. -/
theorem test_qcmp_wide : givesG (.qcmp 0 0 1) (withQ [(0, rat MAX (MAX - 1)), (1, rat (MAX - 1) (MAX - 2))]) 0
    0xFFFFFFFFFFFFFFFF = true := by decide
/-- V43_19, the double rounding of 43_convert.md R200. -/
theorem test_q2f_double_rounding : runs (.q2f 1 0) (withQ [(0, rat 1105622456800654396 3)])
    (fun t => readG t 1 == 0x43947547B0571045 && t.status == 0) = true := by decide
/-- V43_4. -/
theorem test_q2f_exact : runs (.q2f 1 0) (withQ [(0, rat (-7) 2)])
    (fun t => readG t 1 == 0xC00C000000000000 && t.status == 8) = true := by decide
/-- V43_30. -/
theorem test_f2q_largest : givesQ (.f2q 0 0) (withG [(0, 0xC3DFFFFFFFFFFFFF)]) 0 ⟨0x8000000000000400, 0⟩ = true := by
  decide
/-- V43_38. -/
theorem test_f2q_subnormal : fails (.f2q 0 0) (withG [(0, 0x000FFFFFFFFFFFFF)]) 2 = true := by decide

/-! ## The port and the step (20_memory.md R62, R64, R66) -/

/-- A state whose next input is one access. -/
def presenting (a : HostAccess) (s : State) : State := { s with inputs := [.access a] }

/-- Does a step answer a next state of which `p` holds? -/
def steps (s : State) (p : State → Bool) : Bool :=
  match step s with
  | .next t => p t
  | _ => false

/-- S16 and S6: Q0.DB is read at 0x48 and Q1.DB written at 0x58. -/
theorem test_port_qdb : steps (presenting ⟨0x48, 8, .read⟩ (withQ [(0, rat 3 8)])) (fun t => t.returned == [7]) = true ∧
    steps (presenting ⟨0x58, 8, .write 7⟩ State.reset) (fun t => readQ t 1 == ⟨0, 7⟩) = true := by decide
/-- S10 and S11. -/
theorem test_port_status_write :
    steps (presenting ⟨0xC8, 8, .write 0xFFFFFFFFFFFFFFDF⟩ { State.reset with status := 0x28 })
      (fun t => t.status == 0x28) = true ∧
    steps (presenting ⟨0xC8, 8, .write 0x20⟩ { State.reset with status := 0x28 })
      (fun t => t.status == 0x08) = true := by decide
/-- 20_memory.md R64: a 32-bit access. -/
theorem test_port_not_admitted :
    step (presenting ⟨0, 4, .read⟩ State.reset) = .fault (.accessNotAdmitted ⟨0, 4, .read⟩) := rfl
/-- S12: an unassigned opcode. -/
theorem test_step_illegal : steps (State.reset.withFetchWord 32 0xFF)
    (fun t => t.status == 0x27 && t.cmd == 0xFF) = true := by decide
/-- 70_reset_and_hazards.md R275: STATUS read while BUSY = 1. -/
theorem test_step_busy_status :
    steps { presenting ⟨0xC8, 8, .read⟩ State.reset with status := 0x33, engine := .executing 1 }
      (fun t => t.returned == [0x33] && t.engine == .executing 0) = true := by decide
/-- 20_memory.md R66, 70_reset_and_hazards.md R275: STATUS read in the last cycle with BUSY = 1 returns STATUS as it was
before the command completes, here with ERR 7, which NOP clears. -/
theorem test_step_busy_status_last :
    steps { presenting ⟨0xC8, 8, .read⟩ State.reset with status := 0x37, engine := .executing 0 }
      (fun t => t.returned == [0x37] && t.status == 0x20 && t.engine == .idle && t.inputs == []) = true := by decide
/-- 20_memory.md R66: any other access is held in that cycle. -/
theorem test_step_busy_hold_last :
    steps { presenting ⟨0, 8, .write 5⟩ State.reset with status := 0x10, engine := .executing 0 }
      (fun t => readG t 0 == 0 && t.inputs == [.access ⟨0, 8, .write 5⟩]) = true := by decide

/-! ## Witnesses: states and operands that meet the hypotheses of each statement, clause by clause -/

theorem witness_EncodeThenDecode : wellFormed (.xgcd 7 7 7 6 5) = true := by decide

theorem witness_DecodeThenEncode : decode 0x05677701#64 = .ok (.xgcd 7 7 7 6 5) := by decide

/-- A command about to complete, with nothing else going on. -/
def completing (v : Word) (s : State) : State := placeCommand v s

theorem witness_StepRunsTheDecodedCommand :
    resetAsserted (completing 0x00010220 State.reset) = false ∧
      (completing 0x00010220 State.reset).engine = .executing 0 ∧
      decode (fetchCommand (completing 0x00010220 State.reset)) = .ok (.qadd 2 0 1) ∧
      (completing 0x00010220 State.reset).inputs = [] ∧
      0x00007731 < 2 ^ 32 ∧ decode (BitVec.ofNat 64 0x00007731) = .ok (.f2q 7 7) := by decide

theorem witness_IllegalCommandIsReported :
    resetAsserted (completing 0x40 State.reset) = false ∧ (completing 0x40 State.reset).engine = .executing 0 ∧
      legal (completing 0x40 State.reset).cmd = false := by decide

theorem witness_CmdWriteStartsTheCommand :
    (presenting ⟨0xC0, 8, .write 0x00010220⟩ State.reset).engine = .idle ∧
      (presenting ⟨0xC0, 8, .write 0x00010220⟩ State.reset).inputs =
        .access ⟨0xC0, 8, .write 0x00010220⟩ :: [] := by decide

/-- One cycle before completion and in the completing cycle: a read of STATUS, the read of CMD beside it, a quiet entry
and the empty list. -/
theorem witness_BusyPortServesOnlyStatusReads :
    ∀ n ∈ [0, 1], ∀ l ∈ [[.access ⟨0xC8, 8, .read⟩], [.access ⟨0xC0, 8, .read⟩], [.quiet], []],
      let s : State := { State.reset with status := 0x10, engine := .executing n, inputs := l }
      s.engine = .executing n ∧ resetAsserted s = false ∧ (admittedReg ⟨0xC8, 8, .read⟩).isSome = true ∧
        (admittedReg ⟨0xC0, 8, .read⟩).isSome = true ∧ (⟨0xC0, 8, .read⟩ : HostAccess) ≠ ⟨0xC8, 8, .read⟩ := by decide

theorem witness_IdleEngineStartsNothingByItself :
    State.reset.engine = .idle ∧ State.reset.inputs = [] ∧ ({ State.reset with inputs := [.quiet] } : State).engine = .idle ∧
      (presenting ⟨0xC0, 8, .write 0⟩ State.reset).engine = .idle ∧
      ∃ t, step (presenting ⟨0xC0, 8, .write 0⟩ State.reset) = .next t ∧ t.engine ≠ .idle :=
  ⟨by decide, by decide, by decide, by decide, _, rfl, nofun⟩

theorem witness_CommandCompletesAtomically :
    (completing 0x00010220 (presenting ⟨0xC8, 8, .read⟩ State.reset)).engine = .executing 0 ∧
      Input.reset ∉ (completing 0x00010220 (presenting ⟨0xC8, 8, .read⟩ State.reset)).inputs := by decide

theorem witness_ResetCycleSetsTheResetValues :
    ({ completing 0x00010220 State.reset with inputs := [.reset] } : State).inputs = .reset :: [] := by decide

/-- A narrow access, an unaligned one, and the first offset beyond the window, with the engine idle and executing. -/
theorem witness_NotAdmittedAccessStopsTheHost :
    State.reset.engine = .idle ∧ (4 ≠ 8) ∧ (4 % 8 ≠ 0) ∧ 0xFF < 0x100 ∧
      (presenting ⟨0x100, 8, .read⟩ State.reset).inputs = .access ⟨0x100, 8, .read⟩ :: [] ∧
      (completing 0 (presenting ⟨0x100, 8, .read⟩ State.reset)).engine ≠ .idle ∧
      (completing 0 (presenting ⟨0x100, 8, .read⟩ State.reset)).inputs = .access ⟨0x100, 8, .read⟩ :: [] := by decide

theorem witness_AdmittedHostNeverStops : HostAdmitted (presenting ⟨0xF8, 8, .read⟩ State.reset) := by
  intro a ha
  simp only [presenting, List.mem_singleton, Input.access.injEq] at ha
  subst ha
  decide

/-- The last register of each file, and the last reserved offset. -/
theorem witness_PortReadsReturnTheMappedRegister :
    (presenting ⟨8 * 7, 8, .read⟩ State.reset).engine = .idle ∧
      (presenting ⟨8 * 7, 8, .read⟩ State.reset).inputs = .access ⟨0x38, 8, .read⟩ :: [] ∧
      (presenting ⟨0x48 + 16 * 7, 8, .read⟩ State.reset).inputs = .access ⟨0xB8, 8, .read⟩ :: [] ∧
      (presenting ⟨0xD0 + 8 * 5, 8, .read⟩ State.reset).inputs = .access ⟨0xF8, 8, .read⟩ :: [] := by decide

theorem witness_PortWritesReachTheMappedRegister :
    (presenting ⟨0xC8, 8, .write 0x20⟩ State.reset).engine = .idle ∧
      (presenting ⟨0x40 + 16 * 7, 8, .write 5⟩ State.reset).inputs = .access ⟨0xB0, 8, .write 5⟩ :: [] ∧
      (presenting ⟨0xD0 + 8 * 5, 8, .write 5⟩ State.reset).inputs = .access ⟨0xF8, 8, .write 5⟩ :: [] := by decide

theorem witness_HostBytesAreLittleEndianLanes : portReg 0xF8 = some .reserved ∧ portReg 0 = some (.g 0) ∧ 7 < 8 ∧
    (Config.portBase + 256 < Config.portBase ∨ Config.portBase + 256 ≤ Config.portBase + 256) :=
  ⟨by decide, by decide, by decide, .inr le_rfl⟩

theorem witness_StepKeepsStatusInv : StatusInv State.reset ∧ step State.reset = .next State.reset :=
  ⟨⟨by decide, by decide, by decide⟩, rfl⟩

theorem witness_CommandsWriteOnlyValidRationals : ∃ t, exec (.qmov 1 0) (withQ [(0, ⟨2, 1⟩)]) = .next t := ⟨_, rfl⟩

theorem witness_StepKeepsQRegistersValid :
    AllValid (completing 0x00010220 State.reset) ∧ ¬ HostWritesQ (completing 0x00010220 State.reset) ∧
      ∃ t, step (completing 0x00010220 State.reset) = .next t := by
  refine ⟨?_, ?_, ?_⟩
  · unfold AllValid
    decide
  · rintro ⟨a, rest, i, v, h, -⟩
    cases h
  · exact ⟨_, rfl⟩

theorem witness_CommandsReportOnlyTheirErrors : wellFormed (.qinv 1 0) = true ∧ Reports (.qinv 1 0) State.reset .divisionByZero :=
  ⟨by decide, _, rfl, failed_completeError _ _⟩

/-- The second source alone is invalid. -/
theorem witness_InvalidSourceIsReported :
    ∃ r ∈ checkedSources (.qadd 2 0 1), (readQ (withQ [(1, ⟨2, 1⟩)]) r).valid = false := by decide

theorem witness_CommandsChangeOnlyTheirDestinations : ∃ t, exec (.xgcd 0 0 1 2 3) (withG [(0, 240), (1, 46)]) = .next t :=
  ⟨_, rfl⟩

/-- The bytes just before and after Q2.N and Q2.DB. -/
theorem witness_CommandsLeaveOtherPortBytes :
    (∃ t, exec (.qadd 2 0 1) State.reset = .next t) ∧
      (∀ o ∈ destOffsets (.qadd 2 0 1), 0x5F < o ∨ o + 8 ≤ 0x5F) ∧
      (∀ o ∈ destOffsets (.qadd 2 0 1), 0x70 < o ∨ o + 8 ≤ 0x70) := ⟨⟨_, rfl⟩, by decide, by decide⟩

/-- An idle step, an illegal command and a legal one. -/
theorem witness_ErrHoldsUntilACommandCompletes :
    (∃ t, step State.reset = .next t) ∧ resetAsserted State.reset = false ∧ State.reset.engine ≠ .executing 0 ∧
      (∃ t, step (completing 0x3 State.reset) = .next t) ∧ legal (completing 0x3 State.reset).cmd = false ∧
      (∃ t, step (completing 0x31 State.reset) = .next t) ∧ (completing 0x31 State.reset).engine = .executing 0 ∧
      decode (completing 0x31 State.reset).cmd = .ok (.f2q 0 0) :=
  ⟨⟨_, rfl⟩, by decide, by decide, ⟨_, rfl⟩, by decide, ⟨_, rfl⟩, by decide, by decide⟩

theorem witness_ExactIsWrittenOnlyByQ2f :
    (∃ t, step (completing 0x00000130 State.reset) = .next t) ∧
      resetAsserted (completing 0x00000130 State.reset) = false ∧
      decode (completing 0x00000130 State.reset).cmd = .ok (.q2f 1 0) ∧
      (readQ (completing 0x00000130 State.reset) 0).valid = true ∧
      (readQ (completing 0x00000130 (withQ [(0, ⟨2, 1⟩)])) 0).valid = false ∧
      (∃ t, step (completing 0x00000130 (withQ [(0, ⟨2, 1⟩)])) = .next t) :=
  ⟨⟨_, rfl⟩, by decide, by decide, by decide, by decide, ⟨_, rfl⟩⟩

theorem witness_StickyIsSetByErrorsAndClearedByTheHost :
    (∃ t, step (completing 0xFF State.reset) = .next t) ∧ (completing 0xFF State.reset).engine = .executing 0 ∧
      resetAsserted (completing 0xFF State.reset) = false ∧
      (presenting ⟨0xC8, 8, .write 0x20⟩ State.reset).inputs = .access ⟨0xC8, 8, .write 0x20⟩ :: [] ∧
      (let s := presenting ⟨0xC0, 8, .write 0⟩ { State.reset with status := 0x21 }
       resetAsserted s = false ∧ s.engine ≠ .executing 0 ∧ (∃ t, step s = .next t) ∧
         ¬ ∃ v rest, s.engine = .idle ∧ s.inputs = .access ⟨0xC8, 8, .write v⟩ :: rest) :=
  ⟨⟨_, rfl⟩, by decide, by decide, by decide, by decide, by decide, ⟨_, rfl⟩, by simp [presenting]⟩

theorem witness_NopClearsErrOnly :
    resetAsserted (completing 0x100 State.reset) = false ∧ (completing 0x100 State.reset).engine = .executing 0 ∧
      (completing 0x100 State.reset).cmd.extractLsb' 0 8 = 0#8 ∧ (completing 0x100 State.reset).cmd ≠ 0 := by decide

/-- Inputs −2^63 + 1 and 2^63 − 1, for XgcdWritesTheLoopTriple, XgcdRegistersSatisfyBezout and GcdWritesTheGcd. -/
theorem witness_gcd_inputs : (2 : GReg) ≠ 3 ∧ (2 : GReg) ≠ 4 ∧ (3 : GReg) ≠ 4 ∧
    sint64 (readG (withG [(0, 0x8000000000000001), (1, 0x7FFFFFFFFFFFFFFF)]) 0) ≠ MIN ∧
    sint64 (readG (withG [(0, 0x8000000000000001), (1, 0x7FFFFFFFFFFFFFFF)]) 1) ≠ MIN := by decide

theorem witness_GcdLoopEndsWithinItsFuel : (-1 : Int).natAbs ≤ 1 ∧ (0 : Int).natAbs ≤ 0 := by decide

theorem witness_XgcdTripleIsBezoutAndFits : MIN < MIN + 1 ∧ MIN + 1 ≤ MAX ∧ MIN < MAX ∧ MAX ≤ MAX ∧ MIN < 0 ∧
    (0 : Int) ≤ MAX := by decide

theorem witness_GcdCommandsRefuseMin :
    readG (withG [(1, 0x8000000000000000)]) 0 = 0x8000000000000000#64 ∨
      readG (withG [(1, 0x8000000000000000)]) 1 = 0x8000000000000000#64 := by decide

/-- The largest numerator and denominator. -/
theorem witness_ValidPatternsAreCanonical : -MAX ≤ (1 : ℚ).num ∧ (1 : ℚ).num ≤ MAX ∧ ((1 : ℚ).den : Int) ≤ MAX ∧
    (rat (-MAX) (MAX - 1)).valid = true ∧ (rat 1 MAX).valid = true := by decide

/-- The denominators 0 and 1, and the numerator −2^63 with an odd and an even denominator. -/
theorem witness_QnewStoresTheReducedQuotient :
    sint64 (readG State.reset 1) ≤ 0 ∧
      (let s := withG [(0, 0x8000000000000000), (1, 1), (2, 2)]
       0 < sint64 (readG s 1) ∧ sint64 (readG s 0) = MIN ∧ sint64 (readG s 1) % 2 = 1 ∧ 0 < sint64 (readG s 2) ∧
         ¬(sint64 (readG s 0) = MIN ∧ sint64 (readG s 2) % 2 = 1)) := by decide

/-- The largest denominator MAX, and 2^63 above it. -/
theorem witness_QvalidWritesTheValidity :
    (let x : RatReg := ⟨1, 0x7FFFFFFFFFFFFFFE⟩
     1 ≤ x.den ∧ x.den ≤ MAX ∧ x.num ≠ MIN ∧ Int.gcd x.num x.den = 1) ∧
    (let x : RatReg := ⟨1, 0x7FFFFFFFFFFFFFFF⟩
     ¬(1 ≤ x.den ∧ x.den ≤ MAX ∧ x.num ≠ MIN ∧ Int.gcd x.num x.den = 1)) := by decide

/-- One valid source, for QnumAndQdenWriteTheirParts, QsgnAndQiszReadTheValue, QinvStoresTheInverseOrReports,
QnegAndQabsStoreTheirValue and Q2fWritesTheQuotientAndFlag: the most negative numerator and the largest denominators. -/
theorem witness_one_valid_source : (readQ (withQ [(0, rat (-MAX) (MAX - 1))]) 0).valid = true ∧
    (readQ (withQ [(0, rat 1 MAX)]) 0).valid = true := by decide

/-- QADD: q = MAX + 1; then q ≤ MAX with l = MAX + 2, the least possible overflow of l; then q = MAX. -/
theorem witness_QaddStoresTheSumOrReports :
    let q (x y : RatReg) : Int := ((x.num * y.den + y.num * x.den).natAbs / Int.gcd x.den y.den : Nat)
    let l (x y : RatReg) : Int := ((x.den * y.den).natAbs / Int.gcd x.den y.den : Nat)
    let a := rat MAX 1
    let b := rat 1 1
    let c := rat 1 119537721
    let d := rat 1 77158673929
    let e := rat (MAX - 1) 1
    a.valid = true ∧ b.valid = true ∧ c.valid = true ∧ d.valid = true ∧ e.valid = true ∧ MAX < q a b ∧
      q c d ≤ MAX ∧ MAX < l c d ∧ q e b = MAX ∧ l e b ≤ MAX := by decide

/-- QSUB, with the second operand of the last witness negated. -/
theorem witness_QsubStoresTheDifferenceOrReports :
    let q (x y : RatReg) : Int := ((x.num * y.den - y.num * x.den).natAbs / Int.gcd x.den y.den : Nat)
    let l (x y : RatReg) : Int := ((x.den * y.den).natAbs / Int.gcd x.den y.den : Nat)
    let a := rat MAX 1
    let b := rat (-1) 1
    let c := rat 1 119537721
    let d := rat (-1) 77158673929
    let e := rat (MAX - 1) 1
    b.valid = true ∧ d.valid = true ∧ MAX < q a b ∧ q c d ≤ MAX ∧ MAX < l c d ∧ q e b = MAX ∧ l e b ≤ MAX := by
  decide

/-- The largest operands of the narrow path. -/
theorem witness_AdditionPathIsNotObservable : (⟨2 ^ 31 - 1, 1⟩ : Ratio).valid = true ∧
    narrowAdd ⟨2 ^ 31 - 1, 1⟩ ⟨2 ^ 31 - 1, 1⟩ = true := by decide

/-- QMUL: the numerator 119537721 · 77158673929 = 2^63 + 1, the same denominator, and the product MAX. -/
theorem witness_QmulStoresTheProductOrReports :
    MAX < |((rat 119537721 1).value * (rat 77158673929 1).value).num| ∧
      |((rat 1 119537721).value * (rat 1 77158673929).value).num| ≤ MAX ∧
      MAX < (((rat 1 119537721).value * (rat 1 77158673929).value).den : Int) ∧
      |((rat MAX 1).value * (rat (-1) 1).value).num| ≤ MAX ∧
      (((rat MAX 1).value * (rat (-1) 1).value).den : Int) ≤ MAX := by decide +kernel

theorem witness_QdivStoresTheQuotientOrReports :
    (rat 0 1).value = 0 ∧ (rat 1 2).value ≠ 0 ∧ MAX < |((rat MAX 1).value / (rat 1 2).value).num| ∧
      (rat 2 1).value ≠ 0 ∧ |((rat 1 MAX).value / (rat 2 1).value).num| ≤ MAX ∧
      MAX < (((rat 1 MAX).value / (rat 2 1).value).den : Int) ∧
      |((rat MAX 1).value / (rat (-1) 1).value).num| ≤ MAX ∧
      (((rat MAX 1).value / (rat (-1) 1).value).den : Int) ≤ MAX := by decide +kernel

theorem witness_QinvStoresTheInverseOrReports : (rat 0 1).value = 0 ∧ (rat (-1) MAX).value ≠ 0 := by decide +kernel

theorem witness_QcmpWritesTheOrder : (rat 1 MAX).value < (rat 1 (MAX - 1)).value ∧
    (rat (-MAX) 1).value < (rat MAX 1).value := by decide +kernel

/-- The quotients 1/1 and 1/3, and a tie, (2^53 + 1)/1. -/
theorem witness_RoundingIsNearestTiesToEven : ∀ p ∈ [(1, 1), (1, 3), (2 ^ 53 + 1, 1)], 0 < p.1 ∧ 0 < p.2 := by decide

theorem witness_Q2fResultIsNormal : (rat 1 MAX).valid = true ∧ (rat 1 MAX).num ≠ 0 ∧ (rat (-MAX) 1).num ≠ 0 := by decide

theorem witness_ExactFlagMeansTheDoubleEqualsTheValue :
    (rat (2 ^ 53 - 1) (2 ^ 62)).valid = true ∧ exactFlag (rat (2 ^ 53 - 1) (2 ^ 62)).toRatio = true ∧
      (rat 3 8).den ≠ 1 ∧ f64Bits (toF64 (rat 3 8).toRatio) = 0x3FD8000000000000 := by decide

/-- A NaN, an infinity, 2^63, 2^−63 and the largest double below 2^63, for the clauses of F2Q. -/
theorem witness_F2qStoresTheExactValueOrReports :
    f64Exp 0x7FF0000000000001 = 0x7FF ∧ f64Frac 0x7FF0000000000001 ≠ 0 ∧ f64Frac 0xFFF0000000000000 = 0 ∧
      2 ^ 63 ≤ |f64Value 0xC3E0000000000000| ∧ 2 ^ 63 ≤ (f64Value 0x3C00000000000000).den ∧
      |f64Value 0x43DFFFFFFFFFFFFF| < 2 ^ 63 ∧ (f64Value 0x43DFFFFFFFFFFFFF).den < 2 ^ 63 := by decide +kernel

theorem witness_ConversionRoundTrips :
    (∃ t, exec (.q2f 1 0) (withQ [(0, rat 3 8)]) = .next t ∧ statusExact t.status = true) ∧
      ∃ t, exec (.f2q 0 0) (withG [(0, 0x8000000000000000)]) = .next t ∧ statusErr t.status = 0 :=
  ⟨⟨_, rfl, by decide⟩, ⟨_, rfl, by decide⟩⟩

end Sys2Proof.Tests
end

section
/-! PROOFS. A host access in a cycle with the engine idle (20_memory.md R67), and the host's write to CMD
(10_state.md R41, R43). -/

namespace Sys2Proof.Machine

section
variable {s : State} {a : HostAccess} {r : PortReg} {rest : List Input} {v : Word}

/-- With the engine idle, a step with an access at the head of the inputs is the port's performance of it. -/
theorem step_of_idle_access (he : s.engine = .idle) (hi : s.inputs = .access a :: rest) :
    step s = performAccess a { s with inputs := rest } := by
  have hr : resetAsserted s = false := by simp [resetAsserted, hi]
  simp [step, hr, he, idleCycle, hi]

/-- An admitted write is the register's own write (20_memory.md R62). -/
theorem performAccess_of_write (hr : admittedReg a = some r) (hk : a.kind = .write v) :
    performAccess a s = .next (writePort r v s) := by
  simp [performAccess, hr, hk]

/-- LATENCY's operands are register words; the inputs to come play no part. -/
@[simp] theorem commandWords_withInputs : commandWords v { s with inputs := rest } = commandWords v s := rfl

/-- A host write to CMD with the engine idle starts the command (10_state.md R43). -/
theorem step_of_cmd_write (he : s.engine = .idle) (hi : s.inputs = .access ⟨0xC0, 8, .write v⟩ :: rest) :
    step s = .next (startCommand v { s with inputs := rest }) := by
  have hr : admittedReg ⟨0xC0, 8, .write v⟩ = some .cmd := by simp [admittedReg, portReg_cmd]
  rw [step_of_idle_access he hi, performAccess_of_write hr rfl, writePort]

end

/-- Settles O7: the step is `startCommand`, whose fields the laws of the port give. -/
theorem cmdWriteStartsTheCommand : Obligations.CmdWriteStartsTheCommand := by
  intro s v rest he hi
  refine ⟨startCommand v { s with inputs := rest }, Config.extraCycles v (commandWords v s),
    step_of_cmd_write he hi, ?_⟩
  simp [Config.latency]

end Sys2Proof.Machine
end

section
/-! PROOFS. The rounding of 00_scope.md R18: the scaling that puts a quotient between 2^52 and 2^53, the nearest integer
there, and that no other 53-bit significand at any exponent is nearer. -/

namespace Sys2Proof.Machine

/-! ### The length of a number in bits -/

theorem lt_two_pow_bitlen (k : Nat) : k < 2 ^ bitlen k := by
  unfold bitlen
  split
  · omega
  · exact Nat.lt_log2_self

theorem two_pow_bitlen_le {k : Nat} (h : 0 < k) : 2 ^ bitlen k ≤ 2 * k := by
  have hk : k ≠ 0 := h.ne'
  have := Nat.log2_self_le hk
  rw [bitlen, if_neg hk, Nat.pow_succ]
  omega

/-- The bit lengths fix the quotient up to a factor of 4. -/
theorem quotient_bitlen_bounds {a b : Nat} (ha : 0 < a) (hb : 0 < b) :
    (2 : ℚ) ^ ((bitlen a : Int) - bitlen b - 1) < a / b ∧ (a / b : ℚ) < 2 ^ ((bitlen a : Int) - bitlen b + 1) := by
  have hb' : (0 : ℚ) < b := by exact_mod_cast hb
  have ha1 : (a : ℚ) < 2 ^ bitlen a := by exact_mod_cast lt_two_pow_bitlen a
  have hb1 : (b : ℚ) < 2 ^ bitlen b := by exact_mod_cast lt_two_pow_bitlen b
  have ha2 : (2 : ℚ) ^ bitlen a ≤ 2 * a := by exact_mod_cast two_pow_bitlen_le ha
  have hb2 : (2 : ℚ) ^ bitlen b ≤ 2 * b := by exact_mod_cast two_pow_bitlen_le hb
  have hpow : (2 : ℚ) ^ ((bitlen a : Int) - bitlen b) = 2 ^ bitlen a / 2 ^ bitlen b := by
    rw [zpow_sub₀ two_ne_zero, zpow_natCast, zpow_natCast]
  rw [zpow_sub_one₀ two_ne_zero, zpow_add_one₀ two_ne_zero, hpow]
  constructor
  · calc (2 : ℚ) ^ bitlen a / 2 ^ bitlen b * 2⁻¹ ≤ 2 * a / 2 ^ bitlen b * 2⁻¹ := by gcongr
      _ = a / 2 ^ bitlen b := by ring
      _ < a / b := by gcongr
  · calc (a / b : ℚ) < 2 ^ bitlen a / b := by gcongr
      _ = 2 ^ bitlen a / (2 * b) * 2 := by field_simp
      _ ≤ 2 ^ bitlen a / 2 ^ bitlen b * 2 := by gcongr

/-! ### Scaling -/

theorem scaleBy_snd_pos (a : Nat) {b : Nat} (e : Int) (hb : 0 < b) : 0 < (scaleBy a b e).2 := by
  simp only [scaleBy]
  positivity

/-- The scaled pair is the quotient divided by 2^e. -/
theorem scaleBy_quotient (a b : Nat) (e : Int) :
    ((scaleBy a b e).1 : ℚ) / (scaleBy a b e).2 = a / b * 2 ^ (-e) := by
  obtain ⟨n, rfl | rfl⟩ := Int.eq_nat_or_neg e
  · simp [scaleBy, div_eq_mul_inv, mul_assoc, mul_comm]
  · simp [scaleBy, div_eq_mul_inv, mul_right_comm]

/-- The quotient a/b with its exponent taken out. -/
def scaledQuotient (a b : Nat) : ℚ := (a : ℚ) / b * 2 ^ (-sigExp a b)

theorem scaledQuotient_mul (a b : Nat) : scaledQuotient a b * 2 ^ sigExp a b = (a : ℚ) / b := by
  rw [scaledQuotient, mul_assoc, ← zpow_add₀ two_ne_zero]
  simp

/-- Distances from a/b are distances from the scaled quotient, scaled back. -/
theorem abs_sub_scaled (a b : Nat) (c : ℚ) :
    |(a / b : ℚ) - c * 2 ^ sigExp a b| = |scaledQuotient a b - c| * 2 ^ sigExp a b := by
  rw [← scaledQuotient_mul, ← sub_mul, abs_mul, abs_of_pos (a := (2 : ℚ) ^ _) (by positivity)]

/-- `sigExp` chooses the exponent at which the significand has 53 bits. -/
theorem scaledQuotient_bounds {a b : Nat} (ha : 0 < a) (hb : 0 < b) :
    2 ^ 52 ≤ scaledQuotient a b ∧ scaledQuotient a b < 2 ^ 53 := by
  obtain ⟨hlo, hhi⟩ := quotient_bitlen_bounds ha hb
  unfold scaledQuotient sigExp
  set e : Int := (bitlen a : Int) - bitlen b - 53 with he
  have hc2 : (0 : ℚ) < (scaleBy a b e).2 := by exact_mod_cast scaleBy_snd_pos a e hb
  have htest : (scaleBy a b e).1 < 2 ^ 53 * (scaleBy a b e).2 ↔ (a : ℚ) / b * 2 ^ (-e) < 2 ^ 53 := by
    rw [← scaleBy_quotient, div_lt_iff₀ hc2]
    exact_mod_cast Iff.rfl
  have hscale (k : Int) : (2 : ℚ) ^ (k + e) * 2 ^ (-e) = 2 ^ k := by
    rw [← zpow_add₀ two_ne_zero]
    simp
  have hlo' : (2 : ℚ) ^ 52 < a / b * 2 ^ (-e) := by
    calc (2 : ℚ) ^ 52 = 2 ^ ((52 : Int) + e) * 2 ^ (-e) := by rw [hscale]; norm_num
      _ < a / b * 2 ^ (-e) := by
        gcongr
        rwa [show 52 + e = (bitlen a : Int) - bitlen b - 1 by omega]
  have hhi' : (a / b * 2 ^ (-e) : ℚ) < 2 ^ 54 := by
    calc (a / b * 2 ^ (-e) : ℚ) < 2 ^ ((54 : Int) + e) * 2 ^ (-e) := by
          gcongr
          rwa [show 54 + e = (bitlen a : Int) - bitlen b + 1 by omega]
      _ = 2 ^ 54 := by rw [hscale]; norm_num
  simp only [htest]
  split
  case isTrue h => exact ⟨hlo'.le, h⟩
  case isFalse h =>
    rw [neg_add, zpow_add₀ two_ne_zero, ← mul_assoc]
    norm_num at h hlo' hhi' ⊢
    constructor <;> linarith

/-! ### The nearest integer -/

/-- `divNearestEven` is within one half, and even where it is one half away. -/
theorem abs_sub_divNearestEven (a : Nat) {b : Nat} (hb : 0 < b) :
    |(a / b : ℚ) - divNearestEven a b| ≤ 1 / 2 ∧
      (|(a / b : ℚ) - divNearestEven a b| = 1 / 2 → divNearestEven a b % 2 = 0) := by
  have hb' : (0 : ℚ) < b := by exact_mod_cast hb
  have hsplit : (a / b : ℚ) = (a / b : Nat) + (a % b : Nat) / b := by
    field_simp
    exact_mod_cast (Nat.div_add_mod a b).symm
  have hr0 : (0 : ℚ) ≤ (a % b : Nat) / b := by positivity
  have hr1 : ((a % b : Nat) / b : ℚ) < 1 := by
    rw [div_lt_one hb']
    exact_mod_cast Nat.mod_lt a hb
  have hlt : 2 * (a % b) < b ↔ ((a % b : Nat) / b : ℚ) < 1 / 2 := by
    rw [div_lt_div_iff₀ hb' two_pos, one_mul, mul_comm]
    exact_mod_cast Iff.rfl
  have hgt : b < 2 * (a % b) ↔ (1 / 2 : ℚ) < (a % b : Nat) / b := by
    rw [div_lt_div_iff₀ two_pos hb', one_mul, mul_comm]
    exact_mod_cast Iff.rfl
  rw [hsplit]
  simp only [divNearestEven, hlt, hgt]
  generalize ((a % b : Nat) / b : ℚ) = f at *
  split_ifs with h1 h2 h3
  · have : |((a / b : Nat) : ℚ) + f - (a / b : Nat)| = f := by rw [add_sub_cancel_left, abs_of_nonneg hr0]
    rw [this]
    exact ⟨h1.le, fun h => absurd h h1.ne⟩
  · have : |((a / b : Nat) : ℚ) + f - ((a / b + 1 : Nat) : ℚ)| = 1 - f := by
      rw [Nat.cast_succ, add_sub_add_left_eq_sub, abs_of_neg (by linarith), neg_sub]
    rw [this]
    exact ⟨by linarith, fun h => by linarith⟩
  · rw [add_sub_cancel_left, abs_of_nonneg hr0]
    exact ⟨not_lt.mp h2, fun _ => h3⟩
  · rw [Nat.cast_succ, add_sub_add_left_eq_sub, abs_of_neg (by linarith), neg_sub]
    exact ⟨by linarith, fun _ => by omega⟩

/-- An integer within one half is nearest among the integers, and another is as near only at one half. -/
theorem nearest_integer_of_half {y : ℚ} {m : Int} (hm : |y - m| ≤ 1 / 2) (k : Int) :
    |y - m| ≤ |y - k| ∧ (k ≠ m → |y - m| = |y - k| → |y - m| = 1 / 2) := by
  by_cases hk : k = m
  · simp [hk]
  · have hone : (1 : ℚ) ≤ |(m : ℚ) - k| := by
      exact_mod_cast Int.one_le_abs (sub_ne_zero.mpr (Ne.symm hk))
    have htri : |(m : ℚ) - k| ≤ |y - m| + |y - k| := by
      rw [abs_sub_comm y m]
      exact abs_sub_le _ _ _
    exact ⟨by linarith, fun _ h => by linarith⟩

/-- Between 2^52 and 2^53, where the integers are the 53-bit significands, no significand at another exponent is
nearer than the nearest integer: a larger exponent gives an integer again, a smaller one a value below 2^52. -/
theorem nearest_significand_of_half {y : ℚ} {m : Nat} (hy : 2 ^ 52 ≤ y) (hm : |y - m| ≤ 1 / 2) {k : Nat}
    (hk : k < 2 ^ 53) (d : Int) :
    |y - m| ≤ |y - k * 2 ^ d| ∧ ((k : ℚ) * 2 ^ d ≠ m → |y - m| = |y - k * 2 ^ d| → |y - m| = 1 / 2) := by
  have hint := nearest_integer_of_half (m := m) (by exact_mod_cast hm)
  rcases le_or_gt 0 d with hd | hd
  · lift d to Nat using hd
    have h := hint (k * 2 ^ d)
    have hne : (k : ℚ) * 2 ^ d ≠ m ↔ (k * 2 ^ d : Int) ≠ m := by exact_mod_cast Iff.rfl
    push_cast at h
    rw [zpow_natCast, hne]
    exact h
  · have hpow : (2 : ℚ) ^ d ≤ 2 ^ (-1 : Int) := zpow_le_zpow_right₀ one_le_two (by omega)
    have hk' : (k : ℚ) < 2 ^ 53 := by exact_mod_cast hk
    have hbelow : (k : ℚ) * 2 ^ d < 2 ^ 52 := by
      calc (k : ℚ) * 2 ^ d ≤ k * 2 ^ (-1 : Int) := by gcongr
        _ < 2 ^ 53 * 2 ^ (-1 : Int) := by gcongr
        _ = 2 ^ 52 := by norm_num
    have hgrid := (hint (2 ^ 52)).1
    rw [Int.cast_pow, Int.cast_ofNat, Int.cast_natCast, abs_of_nonneg (a := y - 2 ^ 52) (by linarith)] at hgrid
    have hstrict : |y - m| < |y - k * 2 ^ d| := by
      rw [abs_of_nonneg (a := y - k * 2 ^ d) (by linarith)]
      linarith
    exact ⟨hstrict.le, fun _ h => absurd h hstrict.ne⟩

/-! ### `roundQuotient` -/

/-- The significand `roundQuotient` rounds to, before a carry to 2^53 moves into the exponent. -/
def roundedSig (a b : Nat) : Nat :=
  divNearestEven (scaleBy a b (sigExp a b)).1 (scaleBy a b (sigExp a b)).2

theorem roundQuotient_of_pos (neg : Bool) {a : Nat} (b : Nat) (ha : 0 < a) :
    roundQuotient neg a b =
      if roundedSig a b = 2 ^ 53 then ⟨neg, 2 ^ 52, sigExp a b + 1⟩ else ⟨neg, roundedSig a b, sigExp a b⟩ := by
  rw [roundQuotient, if_neg ha.ne']
  rfl

theorem abs_sub_roundedSig (a : Nat) {b : Nat} (hb : 0 < b) :
    |scaledQuotient a b - roundedSig a b| ≤ 1 / 2 ∧
      (|scaledQuotient a b - roundedSig a b| = 1 / 2 → roundedSig a b % 2 = 0) := by
  have h := abs_sub_divNearestEven (scaleBy a b (sigExp a b)).1 (scaleBy_snd_pos a (sigExp a b) hb)
  rwa [scaleBy_quotient] at h

section
variable (neg : Bool) {a b : Nat} (ha : 0 < a) (hb : 0 < b)

include ha hb in
theorem roundedSig_bounds : 2 ^ 52 ≤ roundedSig a b ∧ roundedSig a b ≤ 2 ^ 53 := by
  obtain ⟨hlo, hhi⟩ := scaledQuotient_bounds ha hb
  obtain ⟨herr, herr'⟩ := abs_le.mp (abs_sub_roundedSig a hb).1
  have h1 : ((2 ^ 52 : Nat) : ℚ) < (roundedSig a b + 1 : Nat) := by push_cast; linarith
  have h2 : ((roundedSig a b : Nat) : ℚ) < (2 ^ 53 + 1 : Nat) := by push_cast; linarith
  exact ⟨Nat.lt_succ_iff.mp (by exact_mod_cast h1), Nat.lt_succ_iff.mp (by exact_mod_cast h2)⟩

include ha

theorem roundQuotient_neg : (roundQuotient neg a b).neg = neg := by
  rw [roundQuotient_of_pos neg b ha]
  split <;> rfl

/-- The carry changes the form of the value and not the value. -/
theorem roundQuotient_mag : (roundQuotient neg a b).mag = roundedSig a b * 2 ^ sigExp a b := by
  rw [roundQuotient_of_pos neg b ha]
  split
  case isTrue h =>
    simp only [F64.mag, h, zpow_add_one₀ (two_ne_zero' ℚ)]
    push_cast
    ring
  case isFalse => rfl

theorem roundQuotient_sig_even (h : roundedSig a b % 2 = 0) : (roundQuotient neg a b).sig % 2 = 0 := by
  rw [roundQuotient_of_pos neg b ha]
  split
  · norm_num
  · exact h

/-- The error of the result, in units of the last place of the scaled quotient. -/
theorem abs_sub_roundQuotient_mag :
    |(a / b : ℚ) - (roundQuotient neg a b).mag| = |scaledQuotient a b - roundedSig a b| * 2 ^ sigExp a b := by
  rw [roundQuotient_mag neg ha, abs_sub_scaled]

include hb

/-- The result is normal: its significand has 53 bits. -/
theorem roundQuotient_sig_bounds : 2 ^ 52 ≤ (roundQuotient neg a b).sig ∧ (roundQuotient neg a b).sig < 2 ^ 53 := by
  obtain ⟨hlo, hhi⟩ := roundedSig_bounds ha hb
  rw [roundQuotient_of_pos neg b ha]
  split
  case isTrue => norm_num
  case isFalse h => exact ⟨hlo, lt_of_le_of_ne hhi h⟩

/-- The relative error of the rounding. -/
theorem roundQuotient_relative_error :
    |(a / b : ℚ) - (roundQuotient neg a b).mag| ≤ a / b / 2 ^ 53 := by
  obtain ⟨hlo, -⟩ := scaledQuotient_bounds ha hb
  rw [abs_sub_roundQuotient_mag neg ha, ← scaledQuotient_mul, mul_div_right_comm]
  gcongr
  linarith [(abs_sub_roundedSig a hb).1]

end

/-- Settles O53: scaled by the exponent of the result, every candidate is an integer or lies below 2^52. -/
theorem roundingIsNearestTiesToEven : Obligations.RoundingIsNearestTiesToEven := by
  intro neg a b ha hb r z
  obtain ⟨hlo, hhi⟩ := roundQuotient_sig_bounds neg ha hb
  obtain ⟨hhalf, heven⟩ := abs_sub_roundedSig a hb
  refine ⟨roundQuotient_neg neg ha, hlo, hhi, fun m e _ hm => ?_⟩
  have hpow : (0 : ℚ) < 2 ^ sigExp a b := by positivity
  have hcand : (m : ℚ) * 2 ^ e = m * 2 ^ (e - sigExp a b) * 2 ^ sigExp a b := by
    rw [mul_assoc, ← zpow_add₀ two_ne_zero, sub_add_cancel]
  have hdist : |z - m * 2 ^ e| = |scaledQuotient a b - m * 2 ^ (e - sigExp a b)| * 2 ^ sigExp a b := by
    rw [hcand]
    exact abs_sub_scaled a b _
  obtain ⟨hnear, htie⟩ :=
    nearest_significand_of_half (scaledQuotient_bounds ha hb).1 hhalf hm (e - sigExp a b)
  rw [hdist, abs_sub_roundQuotient_mag neg ha, roundQuotient_mag neg ha, hcand]
  refine ⟨by gcongr, fun hne heq => roundQuotient_sig_even neg ha (heven (htie ?_ ?_))⟩
  · exact fun h => hne (by rw [h])
  · exact mul_right_cancel₀ hpow.ne' heq

end Sys2Proof.Machine
end

section
/-! PROOFS. The bits of a normal double (00_scope.md R18) and the result of Q2F (43_convert.md R200). -/

namespace Sys2Proof.Machine

/-! ### The fields of a binary64 word -/

section
variable (neg : Bool) (e : BitVec 11) (f : BitVec 52)

theorem f64Exp_append : f64Exp (BitVec.ofBool neg ++ e ++ f) = e.toNat := by
  have h : (BitVec.ofBool neg ++ e ++ f).extractLsb' 52 11 = e :=
    (BitVec.extractLsb'_append_eq_of_le le_rfl).trans BitVec.extractLsb'_append_eq_right
  exact congrArg BitVec.toNat h

theorem f64Frac_append : f64Frac (BitVec.ofBool neg ++ e ++ f) = f.toNat :=
  congrArg BitVec.toNat BitVec.extractLsb'_append_eq_right

theorem signBit_append : (BitVec.ofBool neg ++ e ++ f).getLsbD 63 = neg := by
  calc (BitVec.ofBool neg ++ e ++ f).getLsbD 63 = (BitVec.ofBool neg ++ e).getLsbD 11 := BitVec.getLsbD_append
    _ = (BitVec.ofBool neg).getLsbD 0 := BitVec.getLsbD_append
    _ = neg := by simp

end

/-- A value with a 53-bit significand, so not zero; the exponent is free. -/
structure F64.Normalized (f : F64) : Prop where
  sig_ge : 2 ^ 52 ≤ f.sig
  sig_lt : f.sig < 2 ^ 53

theorem F64.Normalized.sig_pos {f : F64} (h : f.Normalized) : 0 < f.sig := lt_of_lt_of_le (by norm_num) h.sig_ge

theorem F64.Normalized.mag_pos {f : F64} (h : f.Normalized) : 0 < f.mag := by
  have := h.sig_pos
  unfold F64.mag
  positivity

/-- A normalized value whose exponent is one of a normal binary64 value (00_scope.md R18). -/
structure F64.Normal (f : F64) : Prop extends f.Normalized where
  exp_ge : -1074 ≤ f.exp
  exp_le : f.exp ≤ 971

section
variable {f : F64} (h : f.Normal)
include h

theorem f64Bits_of_normal :
    f64Bits f = BitVec.ofBool f.neg ++ BitVec.ofInt 11 (f.exp + 1075) ++ BitVec.ofNat 52 (f.sig - 2 ^ 52) := by
  rw [f64Bits, if_neg h.sig_pos.ne']

theorem signBit_f64Bits : (f64Bits f).getLsbD 63 = f.neg := by
  rw [f64Bits_of_normal h]
  exact signBit_append _ _ _

theorem f64Exp_f64Bits : (f64Exp (f64Bits f) : Int) = f.exp + 1075 := by
  rw [f64Bits_of_normal h]
  have := h.exp_ge
  have := h.exp_le
  rw [f64Exp_append, BitVec.toNat_ofInt]
  omega

theorem f64Frac_f64Bits : f64Frac (f64Bits f) = f.sig - 2 ^ 52 := by
  rw [f64Bits_of_normal h]
  have := h.sig_lt
  rw [f64Frac_append, BitVec.toNat_ofNat]
  omega

/-- The bits of a normal value are neither zero, subnormal, infinite nor a NaN. -/
theorem f64Exp_f64Bits_normal : f64Exp (f64Bits f) ≠ 0 ∧ f64Exp (f64Bits f) ≠ 0x7FF := by
  have hexp := f64Exp_f64Bits h
  have := h.exp_ge
  have := h.exp_le
  omega

/-- The bits of a normal value denote it. -/
theorem f64Value_f64Bits : f64Value (f64Bits f) = (if f.neg then -1 else 1) * f.mag := by
  have hfrac : (2 ^ 52 + f64Frac (f64Bits f) : ℚ) = f.sig := by
    rw [f64Frac_f64Bits h, Nat.cast_sub h.sig_ge]
    push_cast
    ring
  rw [f64Value, signBit_f64Bits h, if_neg (f64Exp_f64Bits_normal h).1, hfrac, f64Exp_f64Bits h,
    add_sub_cancel_right, F64.mag]

end

/-! ### Signs and magnitudes of the computed values -/

/-- The magnitude fixes the exponent. -/
theorem F64.Normalized.normal_of_mag {f : F64} (h : f.Normalized) (hlo : (2 : ℚ) ^ (-1021 : Int) ≤ f.mag)
    (hhi : f.mag < 2 ^ (1024 : Int)) : f.Normal := by
  have hsig1 : (2 : ℚ) ^ (52 : Int) ≤ f.sig := by exact_mod_cast h.sig_ge
  have hsig2 : (f.sig : ℚ) < 2 ^ (53 : Int) := by exact_mod_cast h.sig_lt
  have hexp : (2 : ℚ) ^ (-1021 : Int) < 2 ^ (53 + f.exp) := by
    calc (2 : ℚ) ^ (-1021 : Int) ≤ f.sig * 2 ^ f.exp := hlo
      _ < 2 ^ (53 : Int) * 2 ^ f.exp := by gcongr
      _ = 2 ^ (53 + f.exp) := (zpow_add₀ two_ne_zero _ _).symm
  have hexp' : (2 : ℚ) ^ (52 + f.exp) < 2 ^ (1024 : Int) := by
    calc (2 : ℚ) ^ (52 + f.exp) = 2 ^ (52 : Int) * 2 ^ f.exp := zpow_add₀ two_ne_zero _ _
      _ ≤ f.sig * 2 ^ f.exp := by gcongr
      _ < 2 ^ (1024 : Int) := hhi
  rw [zpow_lt_zpow_iff_right₀ one_lt_two] at hexp hexp'
  exact ⟨h, by omega, by omega⟩

/-- Rounding changes a magnitude by less than a factor of 2. -/
theorem roundQuotient_mag_bounds (neg : Bool) {a b : Nat} (ha : 0 < a) (hb : 0 < b) :
    (a / b : ℚ) / 2 ≤ (roundQuotient neg a b).mag ∧ (roundQuotient neg a b).mag ≤ 2 * (a / b) := by
  have hz : (0 : ℚ) ≤ a / b := by positivity
  obtain ⟨h1, h2⟩ := abs_le.mp (roundQuotient_relative_error neg ha hb)
  constructor <;> linarith

theorem roundQuotient_normalized (neg : Bool) {a b : Nat} (ha : 0 < a) (hb : 0 < b) :
    (roundQuotient neg a b).Normalized :=
  let ⟨hlo, hhi⟩ := roundQuotient_sig_bounds neg ha hb
  ⟨hlo, hhi⟩

section
variable {i : Int} (hi : i ≠ 0)
include hi

theorem f64OfInt_neg : (f64OfInt i).neg = decide (i < 0) := roundQuotient_neg _ (Int.natAbs_pos.mpr hi)

theorem f64OfInt_normalized : (f64OfInt i).Normalized :=
  roundQuotient_normalized _ (Int.natAbs_pos.mpr hi) one_pos

theorem f64OfInt_mag_bounds : (i.natAbs : ℚ) / 2 ≤ (f64OfInt i).mag ∧ (f64OfInt i).mag ≤ 2 * i.natAbs := by
  have h := roundQuotient_mag_bounds (decide (i < 0)) (Int.natAbs_pos.mpr hi) one_pos
  rwa [Nat.cast_one, div_one] at h

end

section
variable {x y : F64} (hx : x.Normalized) (hy : y.Normalized)

/-- The pair `f64Div` rounds is the exact quotient of the two magnitudes. -/
theorem f64Div_quotient (x y : F64) :
    ((scaleBy x.sig y.sig (y.exp - x.exp)).1 : ℚ) / (scaleBy x.sig y.sig (y.exp - x.exp)).2 = x.mag / y.mag := by
  rw [scaleBy_quotient, neg_sub, zpow_sub₀ two_ne_zero, F64.mag, F64.mag, mul_div_mul_comm]

include hx in
theorem f64Div_fst_pos : 0 < (scaleBy x.sig y.sig (y.exp - x.exp)).1 := by
  have := hx.sig_pos
  simp only [scaleBy]
  positivity

include hy in
theorem f64Div_snd_pos : 0 < (scaleBy x.sig y.sig (y.exp - x.exp)).2 :=
  scaleBy_snd_pos _ _ hy.sig_pos

include hx in
theorem f64Div_neg : (f64Div x y).neg = (x.neg != y.neg) := roundQuotient_neg _ (f64Div_fst_pos hx)

include hx hy

theorem f64Div_normalized : (f64Div x y).Normalized :=
  roundQuotient_normalized _ (f64Div_fst_pos hx) (f64Div_snd_pos hy)

theorem f64Div_mag_bounds : x.mag / y.mag / 2 ≤ (f64Div x y).mag ∧ (f64Div x y).mag ≤ 2 * (x.mag / y.mag) := by
  rw [← f64Div_quotient]
  exact roundQuotient_mag_bounds _ (f64Div_fst_pos hx) (f64Div_snd_pos hy)

end

/-! ### Q2F of a valid source -/

section
variable {x : Ratio} (hx : x.valid = true) (h0 : x.num ≠ 0)
include hx

theorem den_pos_of_valid : 0 < x.den := ((ratio_valid_iff x).mp hx).1

theorem den_natAbs_lt_of_valid : x.den.natAbs < 2 ^ 63 := by
  obtain ⟨h1, hmax, -⟩ := (ratio_valid_iff x).mp hx
  unfold MAX at hmax
  omega

include h0

/-- The sign of the result is the sign of the source. -/
theorem toF64_neg : (toF64 x).neg = decide (x.num < 0) := by
  have hd := den_pos_of_valid hx
  rw [toF64, f64Div_neg (f64OfInt_normalized h0), f64OfInt_neg h0, f64OfInt_neg hd.ne']
  simp [not_lt.mpr hd.le]

end

/-- A converted nonzero integer of a register is far inside the range of a double. -/
theorem f64OfInt_mag_range {i : Int} (hi : i ≠ 0) (h : i.natAbs ≤ 2 ^ 63) :
    1 / 2 ≤ (f64OfInt i).mag ∧ (f64OfInt i).mag ≤ 2 ^ 64 := by
  obtain ⟨hlo, hhi⟩ := f64OfInt_mag_bounds hi
  have h1 : (1 : ℚ) ≤ i.natAbs := by exact_mod_cast Int.natAbs_pos.mpr hi
  have h2 : (i.natAbs : ℚ) ≤ 2 ^ 63 := by exact_mod_cast h
  constructor <;> linarith

/-- Q2F of two integers in the range of a register gives a normal value, whatever their common divisor. -/
theorem f64Div_f64OfInt_normal {m n : Int} (hm : m ≠ 0) (hn : n ≠ 0) (hm' : m.natAbs ≤ 2 ^ 63)
    (hn' : n.natAbs ≤ 2 ^ 63) : (f64Div (f64OfInt m) (f64OfInt n)).Normal := by
  have hmN := f64OfInt_normalized hm
  have hnN := f64OfInt_normalized hn
  obtain ⟨hmlo, hmhi⟩ := f64OfInt_mag_range hm hm'
  obtain ⟨hnlo, hnhi⟩ := f64OfInt_mag_range hn hn'
  obtain ⟨hlo, hhi⟩ := f64Div_mag_bounds hmN hnN
  have hn0 := hnN.mag_pos
  have hm0 := hmN.mag_pos
  have hqlo : (1 / 2 / 2 ^ 64 : ℚ) ≤ (f64OfInt m).mag / (f64OfInt n).mag := by gcongr
  have hqhi : (f64OfInt m).mag / (f64OfInt n).mag ≤ (2 ^ 64 / (1 / 2) : ℚ) := by gcongr
  refine (f64Div_normalized hmN hnN).normal_of_mag ?_ ?_
  · calc (2 : ℚ) ^ (-1021 : Int) ≤ 2 ^ (-66 : Int) := zpow_le_zpow_right₀ one_le_two (by norm_num)
      _ = 1 / 2 / 2 ^ 64 / 2 := by norm_num
      _ ≤ _ := by linarith
  · calc (f64Div (f64OfInt m) (f64OfInt n)).mag ≤ 2 * (2 ^ 64 / (1 / 2)) := by linarith
      _ = 2 ^ (66 : Int) := by norm_num
      _ < 2 ^ (1024 : Int) := zpow_lt_zpow_right₀ one_lt_two (by norm_num)

theorem natAbs_num_le (x : RatReg) : x.num.natAbs ≤ 2 ^ 63 := by
  have hlo : -2 ^ 63 ≤ x.num := x.n.le_toInt
  have hhi : x.num < 2 ^ 63 := x.n.toInt_lt
  omega

/-- Settles O54: both roundings keep the magnitude within a factor of 2, far inside the range of a normal double. -/
theorem q2fResultIsNormal : Obligations.Q2fResultIsNormal := by
  intro x hx h0 f
  have hv : x.toRatio.valid = true := hx
  have hnum := natAbs_num_le x
  have hden := den_natAbs_lt_of_valid hv
  have hn : f.Normal := f64Div_f64OfInt_normal h0 (den_pos_of_valid hv).ne' hnum hden.le
  obtain ⟨hexp0, hexp1⟩ := f64Exp_f64Bits_normal hn
  refine ⟨hexp0, hexp1, ?_⟩
  have hneg : f.neg = decide (x.num < 0) := toF64_neg hv h0
  simp only [f64Value_f64Bits hn, hneg, decide_eq_true_eq]

end Sys2Proof.Machine
end

section
/-! PROOFS. The pairs a Q register can hold (10_state.md R34 to R36): validity in one set of conditions, the storage
form as the inverse of reading, and the one valid pattern of a rational number. -/

namespace Sys2Proof.Machine

/-- A pair of integers that R34 lets a command store: in range and in lowest terms. `gcd(0, d) = 1` forces `d = 1`, so
R35's condition 3 is part of `coprime`. -/
structure Ratio.Storable (r : Ratio) : Prop where
  den_pos : 1 ≤ r.den
  den_le : r.den ≤ MAX
  num_le : (r.num.natAbs : Int) ≤ MAX
  coprime : Int.gcd r.num r.den = 1

/-! ### Validity -/

/-- The range of a register word read as signed (00_scope.md R13, R17). -/
theorem sint64_range (w : Word) : MIN ≤ sint64 w ∧ sint64 w ≤ MAX :=
  ⟨w.le_toInt, Int.le_sub_one_of_lt w.toInt_lt⟩

section
variable (x : RatReg)

/-- A numerator word is in range but for MIN. -/
theorem RatReg.natAbs_num_le_max_iff : (x.num.natAbs : Int) ≤ MAX ↔ x.num ≠ MIN := by
  obtain ⟨hlo, hhi⟩ : MIN ≤ x.num ∧ x.num ≤ MAX := sint64_range x.n
  unfold MIN MAX at *
  omega

/-- R35 for a register, with conditions 3 and 4 as one. -/
theorem RatReg.valid_iff_gcd :
    x.valid = true ↔ 1 ≤ x.den ∧ x.den ≤ MAX ∧ x.num ≠ MIN ∧ Int.gcd x.num x.den = 1 := by
  have hiff := ratio_valid_iff x.toRatio
  change x.valid = true ↔ 1 ≤ x.den ∧ x.den ≤ MAX ∧ x.num ≠ MIN ∧ (x.num = 0 → x.den = 1) ∧
    (x.num ≠ 0 → Int.gcd x.num x.den = 1) at hiff
  rw [hiff]
  by_cases h0 : x.num = 0
  · simp only [h0, Int.gcd_zero_left, true_implies, ne_eq, not_true, false_implies, and_true]
    omega
  · simp [h0]

theorem RatReg.valid_iff_storable : x.valid = true ↔ x.toRatio.Storable := by
  rw [x.valid_iff_gcd]
  constructor
  · rintro ⟨hpos, hmax, hmin, hgcd⟩
    exact ⟨hpos, hmax, x.natAbs_num_le_max_iff.mpr hmin, hgcd⟩
  · rintro ⟨hpos, hmax, hnum, hgcd⟩
    exact ⟨hpos, hmax, x.natAbs_num_le_max_iff.mp hnum, hgcd⟩

/-- Condition 1 of R35 in terms of the biased word. -/
theorem RatReg.den_range_iff : (1 ≤ x.den ∧ x.den ≤ MAX) ↔ (0 ≤ sint64 x.db ∧ sint64 x.db ≤ 2 ^ 63 - 2) := by
  unfold RatReg.den MAX
  omega

end

/-- Reduction (41_construct.md R120) gives a pair back exactly when it is in lowest terms and its numerator is not
MIN. -/
theorem reduce_eq_self_iff {n d : Int} (hd : 0 < d) : reduce n d = .ok ⟨n, d⟩ ↔ n ≠ MIN ∧ Int.gcd n d = 1 := by
  by_cases hn : n = 0
  · have hmin : (0 : Int) ≠ MIN := by decide
    have hgcd : (1 : Int) = d ↔ Int.gcd 0 d = 1 := by
      rw [Int.gcd_zero_left]
      omega
    simp only [hn, reduce_zero hd, Except.ok.injEq, Ratio.mk.injEq, true_and, hgcd, ne_eq, hmin, not_false_eq_true]
  · constructor
    · intro h
      rw [reduce_of_pos hd hn] at h
      split at h
      · cases h
      · rename_i hmin
        obtain ⟨hnum, hden⟩ : n / (Int.gcd n d : Int) = n ∧ d / (Int.gcd n d : Int) = d := by simpa using h
        have hgcd : (Int.gcd n d : Int) = 1 := by
          have hmul : d / (Int.gcd n d : Int) * Int.gcd n d = d := Int.ediv_mul_cancel (Int.gcd_dvd_right ..)
          rw [hden] at hmul
          exact mul_left_cancel₀ hd.ne' (hmul.trans (mul_one d).symm)
        exact ⟨hnum ▸ hmin, by exact_mod_cast hgcd⟩
    · rintro ⟨hmin, hgcd⟩
      exact reduce_of_coprime hd hn hgcd hmin

/-! ### The storage form -/

@[simp] theorem storeRatio_toRatio (x : RatReg) : storeRatio x.toRatio = x := by
  simp [storeRatio, RatReg.toRatio, RatReg.num, RatReg.den]

section
variable {r : Ratio} (h : r.Storable)
include h

theorem toRatio_storeRatio : (storeRatio r).toRatio = r := by
  obtain ⟨hpos, hmax, hnum, -⟩ := h
  unfold MAX at hmax hnum
  have hn : (storeRatio r).num = r.num := BitVec.toInt_ofInt_eq_self (by decide) (by omega) (by omega)
  have hd : sint64 (storeRatio r).db = r.den - 1 := BitVec.toInt_ofInt_eq_self (by decide) (by omega) (by omega)
  have hd' : (storeRatio r).den = r.den := by
    unfold RatReg.den
    omega
  rw [RatReg.toRatio, hn, hd']

theorem valid_storeRatio : (storeRatio r).valid = true := by
  rw [RatReg.valid_iff_storable, toRatio_storeRatio h]
  exact h

theorem value_storeRatio : (storeRatio r).value = (r.num : ℚ) / r.den := by
  have hr := toRatio_storeRatio h
  calc (storeRatio r).value = ((storeRatio r).toRatio.num : ℚ) / (storeRatio r).toRatio.den := rfl
    _ = (r.num : ℚ) / r.den := by rw [hr]

end

/-! ### The value of a valid register -/

theorem ratPattern_eq_storeRatio (z : ℚ) : ratPattern z = storeRatio ⟨z.num, z.den⟩ := rfl

/-- A rational number in range has a pattern that is valid and holds it (R36). -/
theorem ratPattern_valid_and_value {z : ℚ} (hlo : -MAX ≤ z.num) (hhi : z.num ≤ MAX) (hden : (z.den : Int) ≤ MAX) :
    (ratPattern z).valid = true ∧ (ratPattern z).value = z := by
  have hz : Ratio.Storable ⟨z.num, z.den⟩ :=
    { den_pos := Int.natCast_pos.mpr z.den_pos
      den_le := hden
      num_le := by dsimp only; omega
      coprime := z.reduced }
  rw [ratPattern_eq_storeRatio, value_storeRatio hz, Int.cast_natCast]
  exact ⟨valid_storeRatio hz, z.num_div_den⟩

section
variable {x y : RatReg} (hx : x.valid = true) (hy : y.valid = true)

include hx in
theorem RatReg.den_pos_of_valid : 0 < x.den := (x.valid_iff_gcd.mp hx).1

include hx in
/-- A valid register holds the pattern of its value, so the value fixes the bits. -/
theorem eq_ratPattern_of_valid : x = ratPattern x.value := by
  have hpos := RatReg.den_pos_of_valid hx
  obtain ⟨-, -, -, hgcd⟩ := x.valid_iff_gcd.mp hx
  have hnum : x.value.num = x.num := Rat.num_div_eq_of_coprime hpos hgcd
  have hden : (x.value.den : Int) = x.den := Rat.den_div_eq_of_coprime hpos hgcd
  rw [ratPattern, hnum, hden]
  exact (storeRatio_toRatio x).symm

include hx hy

theorem value_eq_iff_of_valid : x.value = y.value ↔ x = y := by
  constructor
  · intro h
    rw [eq_ratPattern_of_valid hx, h, ← eq_ratPattern_of_valid hy]
  · rintro rfl
    rfl

end

/-- Settles O36: with a positive denominator, re-reduction tests exactly what conditions 2 to 4 say. -/
theorem validityIsTheFourConditions : Obligations.ValidityIsTheFourConditions := by
  intro x
  refine ⟨?_, x.den_range_iff, ?_⟩
  · exact (ratio_valid_iff x.toRatio).trans and_assoc.symm
  · rw [x.valid_iff_gcd, ← and_assoc]
    exact and_congr_right fun h => (reduce_eq_self_iff h.1).symm

/-- Settles O37: the pattern of a rational number in range is valid, and every valid register holds the pattern of its
value. -/
theorem validPatternsAreCanonical : Obligations.ValidPatternsAreCanonical := by
  refine ⟨fun z hlo hhi hden => ⟨ratPattern z, ratPattern_valid_and_value hlo hhi hden, ?_⟩,
    fun x y hx hy => value_eq_iff_of_valid hx hy⟩
  rintro x ⟨hx, rfl⟩
  exact eq_ratPattern_of_valid hx

end Sys2Proof.Machine
end

section
/-! PROOFS. What the rules that end in a pair or an error can answer (41_construct.md R120, 42_arith.md, 43_convert.md
R203, R204): a pair a register can hold, or an error kind other than the reserved one. -/

namespace Sys2Proof.Machine

/-- The answer of a rule is in order: a pair R34 lets the command store, or an error kind a command may report
(60_exceptions.md R240: code 5 is reserved). -/
inductive InOrder : Except ErrKind Ratio → Prop
  | ok {p : Ratio} (h : p.Storable) : InOrder (.ok p)
  | error {e : ErrKind} (h : e ≠ .invalidFormat) : InOrder (.error e)

/-! ### Pairs that are storable by their form -/

theorem storable_zero : Ratio.Storable ⟨0, 1⟩ where
  den_pos := le_rfl
  den_le := by decide
  num_le := by decide
  coprime := rfl

/-- Exact division by the gcd gives a storable pair, unless the numerator becomes MIN (R120). -/
theorem storable_div_gcd {n d : Int} (hd : 0 < d) (hdmax : d ≤ MAX) (hmin : MIN ≤ n) (hmax : n ≤ MAX)
    (hq : n / (Int.gcd n d : Int) ≠ MIN) : Ratio.Storable ⟨n / (Int.gcd n d : Int), d / (Int.gcd n d : Int)⟩ := by
  have hg : 0 < Int.gcd n d := Int.gcd_pos_of_ne_zero_right n hd.ne'
  have hg1 : (1 : Int) ≤ Int.gcd n d := by exact_mod_cast hg
  have hlo : MIN ≤ n / (Int.gcd n d : Int) := by
    rw [Int.le_ediv_iff_mul_le (by omega)]
    unfold MIN at *
    omega
  have hhi : n / (Int.gcd n d : Int) ≤ MAX := by
    refine Int.ediv_le_of_le_mul (by omega) ?_
    unfold MAX at *
    omega
  constructor
  · exact Int.ediv_pos_of_pos_of_dvd hd (by omega) (Int.gcd_dvd_right ..)
  · exact (Int.ediv_le_self _ hd.le).trans hdmax
  · unfold MIN MAX at *
    dsimp only
    omega
  · exact Int.gcd_ediv_gcd_ediv_gcd hg

section
variable {x y : Ratio} (hx : x.Storable)
include hx

theorem storable_negRatio : (negRatio x).Storable := by
  obtain ⟨hpos, hden, hnum, hgcd⟩ := hx
  exact ⟨hpos, hden, by simpa [negRatio] using hnum, by simpa [negRatio] using hgcd⟩

theorem storable_natAbs : Ratio.Storable ⟨x.num.natAbs, x.den⟩ := by
  obtain ⟨hpos, hden, hnum, hgcd⟩ := hx
  exact ⟨hpos, hden, hnum, by rwa [Int.gcd_eq_natAbs_gcd_natAbs, Int.natAbs_natCast]⟩

/-- The inverse of a nonzero storable pair (42_arith.md R162). -/
theorem storable_inverse (h0 : x.num ≠ 0) : Ratio.Storable ⟨x.num.sign * x.den, x.num.natAbs⟩ := by
  obtain ⟨hpos, hden, hnum, hgcd⟩ := hx
  have habs : (x.num.sign * x.den).natAbs = x.den.natAbs := by
    rw [Int.natAbs_mul, Int.natAbs_sign_of_ne_zero h0, one_mul]
  refine ⟨?_, hnum, ?_, ?_⟩
  · dsimp only
    omega
  · dsimp only
    omega
  · rw [Int.gcd_eq_natAbs_gcd_natAbs, habs, Int.natAbs_natCast, Nat.gcd_comm]
    exact hgcd

end

/-- An odd numerator over a power of two, or an integer (43_convert.md R204). -/
theorem storable_two_pow {n : Int} {k : Nat} (hn : (n.natAbs : Int) ≤ MAX) (hk : k < 63)
    (h : n.natAbs % 2 = 1 ∨ k = 0) : Ratio.Storable ⟨n, 2 ^ k⟩ := by
  have hpow : (2 : Int) ^ k ≤ 2 ^ 62 := pow_le_pow_right₀ one_le_two (by omega)
  refine ⟨Int.add_one_le_of_lt (pow_pos two_pos k), ?_, hn, ?_⟩
  · unfold MAX
    dsimp only
    omega
  · rw [Int.gcd_eq_natAbs_gcd_natAbs, Int.natAbs_pow]
    rcases h with hodd | rfl
    · exact (Nat.odd_iff.mpr hodd).coprime_two_right.pow_right k
    · simp

/-! ### The constructor and the arithmetic unit -/

theorem inOrder_reduce {n d : Int} (hmin : MIN ≤ n) (hmax : n ≤ MAX) (hd : d ≤ MAX) : InOrder (reduce n d) := by
  unfold reduce
  split
  · exact .error (by decide)
  · split
    · exact .ok storable_zero
    · split
      · exact .error (by decide)
      · exact .ok (storable_div_gcd (by omega) hd hmin hmax ‹_›)

/-- A product of two factors below 2^31 in magnitude. -/
theorem natAbs_mul_lt_of_narrow {a b : Int} (ha : a.natAbs < NB) (hb : b.natAbs < NB) : (a * b).natAbs < 2 ^ 62 := by
  unfold NB at ha hb
  calc (a * b).natAbs = a.natAbs * b.natAbs := Int.natAbs_mul a b
    _ < 2 ^ 31 * 2 ^ 31 := Nat.mul_lt_mul'' ha hb
    _ = 2 ^ 62 := by norm_num

section
variable {x y : Ratio} (hx : x.Storable) (hy : y.Storable)
include hx hy

theorem inOrder_addNarrow (h : narrowAdd x y = true) : InOrder (addNarrow x y) := by
  obtain ⟨⟨⟨hxn, hyn⟩, hxd⟩, hyd⟩ : ((x.num.natAbs < NB ∧ y.num.natAbs < NB) ∧ x.den < NB) ∧ y.den < NB := by
    simpa [narrowAdd] using h
  have hx0 := hx.den_pos
  have hy0 := hy.den_pos
  have hxd' : x.den.natAbs < NB := by omega
  have hyd' : y.den.natAbs < NB := by omega
  have h1 := natAbs_mul_lt_of_narrow hxn hyd'
  have h2 := natAbs_mul_lt_of_narrow hyn hxd'
  have h3 := natAbs_mul_lt_of_narrow hxd' hyd'
  apply inOrder_reduce <;> simp only [MIN, MAX] at * <;> omega

omit hx hy in
theorem combineCross_sign (m1 m2 : Int) (p1 p2 : Nat) : (combineCross m1 m2 p1 p2).sign.natAbs = 1 := by
  unfold combineCross
  repeat' split
  all_goals rfl

omit hx hy in
/-- The range tests stand before the final reduction, so nothing is asked of the products (R153). -/
theorem inOrder_addWideScaled {c : SignMag} (hc : c.sign.natAbs = 1) (dd g : Nat) : InOrder (addWideScaled c dd g) := by
  unfold addWideScaled
  split
  · exact .error (by decide)
  · split
    · exact .error (by decide)
    · split
      · exact .error (by decide)
      · rename_i hq hd
        have habs : (c.sign * (c.mag / g : Nat)).natAbs = c.mag / g := by
          rw [Int.natAbs_mul, hc, one_mul, Int.natAbs_natCast]
        apply inOrder_reduce <;> simp only [MIN, MAX] at * <;> omega

theorem inOrder_addWide : InOrder (addWide x y) := by
  unfold addWide
  split
  · exact .ok hy
  · split
    · exact .ok hx
    · exact inOrder_addWideScaled (combineCross_sign ..) _ _

theorem inOrder_addRatio : InOrder (addRatio x y) := by
  unfold addRatio
  split
  · exact inOrder_addNarrow hx hy ‹_›
  · exact inOrder_addWide hx hy

theorem inOrder_subRatio : InOrder (subRatio x y) := inOrder_addRatio hx (storable_negRatio hy)

end

/-- Both paths bound their products before the final reduction, so nothing is asked of the operands (R160). -/
theorem inOrder_mulCancelled {s : Int} (hs : s.natAbs ≤ 1) (a1 a2 n1 n2 : Nat) :
    InOrder (mulCancelled s a1 a2 n1 n2) := by
  have habs : (s * (a1 * a2 : Nat)).natAbs ≤ a1 * a2 := by
    rw [Int.natAbs_mul, Int.natAbs_natCast]
    exact mul_le_of_le_one_left (Nat.zero_le _) hs
  unfold mulCancelled
  split
  · rename_i h
    obtain ⟨ha1, ha2, hn1, hn2⟩ := h
    have ha : a1 * a2 < 2 ^ 62 := by exact_mod_cast natAbs_mul_lt_of_narrow (a := a1) (b := a2) ha1 ha2
    have hn : n1 * n2 < 2 ^ 62 := by exact_mod_cast natAbs_mul_lt_of_narrow (a := n1) (b := n2) hn1 hn2
    rw [mul_assoc, ← Nat.cast_mul]
    apply inOrder_reduce <;> simp only [MIN, MAX] <;> omega
  · split
    · exact .error (by decide)
    · split
      · exact .error (by decide)
      · apply inOrder_reduce <;> simp only [MIN, MAX] at * <;> omega

theorem inOrder_mulCore (x y : Ratio) : InOrder (mulCore x y) := by
  have hsign (i : Int) : i.sign.natAbs ≤ 1 := by
    rw [Int.natAbs_sign]
    split <;> simp
  unfold mulCore
  split
  · exact .ok storable_zero
  · apply inOrder_mulCancelled
    rw [Int.natAbs_mul]
    exact Nat.mul_le_mul (hsign _) (hsign _)

theorem inOrder_invCore {x : Ratio} (hx : x.Storable) : InOrder (invCore x) := by
  unfold invCore
  split
  · exact .error (by decide)
  · exact .ok (storable_inverse hx ‹_›)

theorem inOrder_divRatio (x y : Ratio) : InOrder (divRatio x y) := by
  by_cases h : y.num = 0
  · have hdiv : divRatio x y = .error .divisionByZero := by simp [divRatio, invCore, h]
    exact hdiv ▸ .error (by decide)
  · have hdiv : divRatio x y = mulCore x ⟨y.num.sign * y.den, y.num.natAbs⟩ := by simp [divRatio, invCore, h]
    exact hdiv ▸ inOrder_mulCore _ _

/-! ### The converter -/

/-- What is left after stripping the trailing zeros is odd (43_convert.md R203). -/
theorem div_two_pow_trailingZeros_odd (fuel m : Nat) (h0 : 0 < m) (h : m < 2 ^ fuel) :
    m / 2 ^ trailingZeros fuel m % 2 = 1 := by
  induction fuel generalizing m with
  | zero => omega
  | succ fuel ih =>
    unfold trailingZeros
    split
    · simpa using ‹m % 2 = 1›
    · have hhalf : m / 2 < 2 ^ fuel := by
        rw [Nat.pow_succ] at h
        omega
      rw [Nat.pow_succ', ← Nat.div_div_eq_div_mul]
      exact ih (m / 2) (by omega) hhalf

@[simp] theorem natAbs_applySign (neg : Bool) (i : Int) : (applySign neg i).natAbs = i.natAbs := by
  cases neg <;> simp [applySign]

theorem inOrder_fromOdd {neg : Bool} {m : Nat} {e : Int} (hodd : m % 2 = 1) (hm : m < 2 ^ 53) :
    InOrder (fromOdd neg m e) := by
  unfold fromOdd
  split
  · split
    · exact .error (by decide)
    · rename_i he hlen
      have hlt : m * 2 ^ e.toNat < 2 ^ 63 := by
        calc m * 2 ^ e.toNat < 2 ^ bitlen m * 2 ^ e.toNat := by
              have := lt_two_pow_bitlen m
              gcongr
          _ = 2 ^ (bitlen m + e.toNat) := (pow_add ..).symm
          _ ≤ 2 ^ 63 := Nat.pow_le_pow_right two_pos (by omega)
      have habs : (applySign neg (m * 2 ^ e.toNat)).natAbs = m * 2 ^ e.toNat := by
        rw [natAbs_applySign]
        exact_mod_cast Int.natAbs_natCast _
      refine .ok (storable_two_pow (k := 0) ?_ (by omega) (.inr rfl))
      unfold MAX
      omega
  · split
    · exact .error (by decide)
    · have habs : (applySign neg m).natAbs = m := by simp
      refine .ok (storable_two_pow ?_ (by omega) (.inl (by rwa [habs])))
      unfold MAX
      omega

theorem inOrder_fromParts {neg : Bool} {m0 : Nat} {e0 : Int} (h0 : 0 < m0) (h : m0 < 2 ^ 53) :
    InOrder (fromParts neg m0 e0) :=
  inOrder_fromOdd (div_two_pow_trailingZeros_odd 53 m0 h0 h) ((Nat.div_le_self ..).trans_lt h)

theorem inOrder_fromF64 (w : Word) : InOrder (fromF64 w) := by
  have hfrac : f64Frac w < 2 ^ 52 := (w.extractLsb' 0 52).isLt
  unfold fromF64
  split
  · split
    · exact .error (by decide)
    · exact .error (by decide)
  · split
    · split
      · exact .ok storable_zero
      · exact inOrder_fromParts (by omega) (by omega)
    · exact inOrder_fromParts (by omega) (by omega)

end Sys2Proof.Machine
end

section
/-! PROOFS. How a command ends (30_encoding.md R90, R93, 60_exceptions.md R243), once for all twenty commands, and what
follows for the Q file (10_state.md R37) and for QVALID and QCMP. -/

namespace Sys2Proof.Machine

/-- The states a command `i` can lead to: it reports an error; it completes and writes G only; it completes and writes
one Q register, with a valid pattern or as QMOV's raw copy; or it is a Q2F of a valid source, the one command that
writes EXACT (10_state.md R40). -/
inductive Ended (i : Instr) (s : State) : State → Prop
  | reports {e : ErrKind} (he : e ≠ .invalidFormat) : Ended i s (completeError e s)
  | writesG (g : Vector Word 8) : Ended i s (completeOk { s with g := g })
  | writesQ {rd : QReg} {x : RatReg} (hx : x.valid = true ∨ ∃ r, i = .qmov rd r ∧ x = readQ s r) :
      Ended i s (completeOk (writeQ s rd x))
  | writesExact {rd : GReg} {rs1 : QReg} (v : Word) (hi : i = .q2f rd rs1) (hv : (readQ s rs1).valid = true) :
      Ended i s (completeOk (writeExact (writeG s rd v) (exactFlag (readQ s rs1).toRatio)))

/-- A result that is a next state in which `i` has ended. -/
def Ends (i : Instr) (s : State) (r : Result) : Prop := ∃ t, r = .next t ∧ Ended i s t

/-! ### The shared operations -/

section
variable {i : Instr} {s : State}

theorem ends_raise {e : ErrKind} (he : e ≠ .invalidFormat) : Ends i s (raise e s) := ⟨_, rfl, .reports he⟩

theorem ends_finishG (rd : GReg) (v : Word) : Ends i s (finishG rd v s) := ⟨_, rfl, .writesG (s.g.set rd v)⟩

theorem ends_finishQ {rd : QReg} {x : RatReg} (hx : x.valid = true) : Ends i s (finishQ rd x s) :=
  ⟨_, rfl, .writesQ (.inl hx)⟩

theorem ends_finishRatio {rd : QReg} {r : Except ErrKind Ratio} (h : InOrder r) : Ends i s (finishRatio rd r s) := by
  cases h with
  | ok h => exact ends_finishQ (valid_storeRatio h)
  | error h => exact ends_raise h

theorem ends_checkQ {x : RatReg} {rule : Ratio → Result} (h : x.toRatio.Storable → Ends i s (rule x.toRatio)) :
    Ends i s (checkQ x s rule) := by
  unfold checkQ
  split
  · exact h (x.valid_iff_storable.mp ‹_›)
  · exact ends_raise (by decide)

theorem ends_checkQQ {x y : RatReg} {rule : Ratio → Ratio → Result}
    (h : x.toRatio.Storable → y.toRatio.Storable → Ends i s (rule x.toRatio y.toRatio)) :
    Ends i s (checkQQ x y s rule) :=
  ends_checkQ fun hx => ends_checkQ fun hy => h hx hy

end

/-! ### The commands -/

theorem ends_execXgcd {i : Instr} (rd rs1 rs2 rd2 rd3 : GReg) (s : State) :
    Ends i s (execXgcd rd rs1 rs2 rd2 rd3 s) := by
  unfold execXgcd
  dsimp only
  split
  · split
    · exact ⟨_, rfl, .writesG _⟩
    · exact ends_raise (by decide)
  · exact ends_raise (by decide)

theorem ends_execGcd {i : Instr} (rd rs1 rs2 : GReg) (s : State) : Ends i s (execGcd rd rs1 rs2 s) := by
  unfold execGcd
  dsimp only
  split
  · exact ends_finishG _ _
  · exact ends_raise (by decide)

theorem ends_execQ2f (rd : GReg) (rs1 : QReg) (s : State) : Ends (.q2f rd rs1) s (execQ2f rd rs1 s) :=
  ends_checkQ fun h => ⟨_, rfl, .writesExact _ rfl ((readQ s rs1).valid_iff_storable.mpr h)⟩

/-- Every command ends, from every state. -/
theorem ends_exec (i : Instr) (s : State) : Ends i s (exec i s) := by
  unfold exec
  cases i with
  | nop => exact ⟨_, rfl, .writesG s.g⟩
  | xgcd rd rs1 rs2 rd2 rd3 => exact ends_execXgcd rd rs1 rs2 rd2 rd3 s
  | gcd rd rs1 rs2 => exact ends_execGcd rd rs1 rs2 s
  | qnew rd rs1 rs2 =>
    obtain ⟨hmin, hmax⟩ := sint64_range (readG s rs1)
    obtain ⟨-, hd⟩ := sint64_range (readG s rs2)
    exact ends_finishRatio (inOrder_reduce hmin hmax hd)
  | qvalid rd rs1 => exact ends_finishG _ _
  | qnum rd rs1 => exact ends_checkQ fun _ => ends_finishG _ _
  | qden rd rs1 => exact ends_checkQ fun _ => ends_finishG _ _
  | qsgn rd rs1 => exact ends_checkQ fun _ => ends_finishG _ _
  | qisz rd rs1 => exact ends_checkQ fun _ => ends_finishG _ _
  | qmov rd rs1 => exact ⟨_, rfl, .writesQ (.inr ⟨rs1, rfl, rfl⟩)⟩
  | qadd rd rs1 rs2 => exact ends_checkQQ fun hx hy => ends_finishRatio (inOrder_addRatio hx hy)
  | qsub rd rs1 rs2 => exact ends_checkQQ fun hx hy => ends_finishRatio (inOrder_subRatio hx hy)
  | qmul rd rs1 rs2 => exact ends_checkQQ fun _ _ => ends_finishRatio (inOrder_mulCore ..)
  | qdiv rd rs1 rs2 => exact ends_checkQQ fun _ _ => ends_finishRatio (inOrder_divRatio ..)
  | qinv rd rs1 => exact ends_checkQ fun hx => ends_finishRatio (inOrder_invCore hx)
  | qneg rd rs1 => exact ends_checkQ fun hx => ends_finishQ (valid_storeRatio (storable_negRatio hx))
  | qabs rd rs1 => exact ends_checkQ fun hx => ends_finishQ (valid_storeRatio (storable_natAbs hx))
  | qcmp rd rs1 rs2 => exact ends_checkQQ fun _ _ => ends_finishG _ _
  | q2f rd rs1 => exact ends_execQ2f rd rs1 s
  | f2q rd rs1 => exact ends_finishRatio (inOrder_fromF64 _)

/-- What a command that answers a next state can do. -/
theorem exec_ended {i : Instr} {s t : State} (h : exec i s = .next t) : Ended i s t := by
  obtain ⟨u, hu, hend⟩ := ends_exec i s
  rw [hu] at h
  cases h
  exact hend

/-! ### How an ended command looks field by field -/

section
variable {i : Instr} {s t : State}

/-- Every way a command ends is one of the two of R90. -/
theorem Ended.done_or_failed (h : Ended i s t) :
    (∃ g q b, Done s t g q b) ∨ ∃ e, e ≠ .invalidFormat ∧ Failed s t e := by
  cases h with
  | reports he => exact .inr ⟨_, he, failed_completeError _ s⟩
  | writesG g => exact .inl ⟨_, _, _, done_completeOk rfl rfl (.inl rfl) rfl rfl rfl rfl⟩
  | writesQ hx => exact .inl ⟨_, _, _, done_writeQ s _ _⟩
  | writesExact v hi hv =>
    exact .inl ⟨_, _, _, done_completeOk rfl rfl (.inr rfl) (statusExact_withExact _ _) rfl rfl rfl⟩

/-- Each Q register after a command (R37). -/
theorem Ended.readQ_cases (h : Ended i s t) (j : QReg) :
    readQ t j = readQ s j ∨ (readQ t j).valid = true ∨ ∃ r, i = .qmov j r ∧ readQ t j = readQ s r := by
  cases h with
  | reports he => exact .inl rfl
  | writesG g => exact .inl rfl
  | writesExact v hi hv => exact .inl rfl
  | @writesQ rd x hx =>
    have hread : readQ (completeOk (writeQ s rd x)) j = if rd = j then x else readQ s j := readQ_writeQ s rd j x
    rw [hread]
    split
    · subst rd
      exact .inr hx
    · exact .inl rfl

end

/-- Settles O19: each command writes at most one Q register, with a valid pattern but for QMOV. -/
theorem commandsWriteOnlyValidRationals : Obligations.CommandsWriteOnlyValidRationals :=
  fun _ _ _ j h => (exec_ended h).readQ_cases j

/-! ### QVALID and QCMP -/

theorem finishesG_of_exec {i : Instr} {s : State} {rd : GReg} {v : Word} (h : exec i s = finishG rd v s) :
    FinishesG i s rd v := ⟨_, h, done_writeG s rd v⟩

theorem finishesG_qvalid (s : State) (rd : GReg) (rs1 : QReg) :
    FinishesG (.qvalid rd rs1) s rd (boolWord (readQ s rs1).valid) := finishesG_of_exec rfl

/-- Settles O39: QVALID writes the predicate of R35. -/
theorem qvalidWritesTheValidity : Obligations.QvalidWritesTheValidity := by
  intro s rd rs1 x
  have hfin := finishesG_qvalid s rd rs1
  constructor
  · intro hpos hmax hmin hgcd
    have hv : x.valid = true := x.valid_iff_gcd.mpr ⟨hpos, hmax, hmin, hgcd⟩
    rwa [hv] at hfin
  · intro h
    have hv : x.valid = false := by rwa [← Bool.not_eq_true, x.valid_iff_gcd]
    rwa [hv] at hfin

section
variable {x y : RatReg} (hx : x.valid = true) (hy : y.valid = true)

include hx hy in
/-- The order of two values by cross products (42_arith.md R168). -/
theorem value_lt_iff : x.value < y.value ↔ x.num * y.den < y.num * x.den := by
  have hx0 : (0 : ℚ) < x.den := by exact_mod_cast RatReg.den_pos_of_valid hx
  have hy0 : (0 : ℚ) < y.den := by exact_mod_cast RatReg.den_pos_of_valid hy
  rw [RatReg.value, RatReg.value, div_lt_div_iff₀ hx0 hy0]
  exact_mod_cast Iff.rfl

include hx hy in
theorem cmpRatio_of_lt (h : x.value < y.value) : cmpRatio x.toRatio y.toRatio = -1 :=
  Int.sign_eq_neg_one_of_neg (sub_neg.mpr ((value_lt_iff hx hy).mp h))

include hx hy in
theorem cmpRatio_of_gt (h : y.value < x.value) : cmpRatio x.toRatio y.toRatio = 1 :=
  Int.sign_eq_one_of_pos (sub_pos.mpr ((value_lt_iff hy hx).mp h))

theorem cmpRatio_self (x : Ratio) : cmpRatio x x = 0 := by simp [cmpRatio]

end

/-- QCMP of valid sources writes the sign of the cross difference. -/
theorem finishesG_qcmp {s : State} {rs1 rs2 : QReg} (rd : GReg) (h1 : (readQ s rs1).valid = true)
    (h2 : (readQ s rs2).valid = true) :
    FinishesG (.qcmp rd rs1 rs2) s rd (word64 (cmpRatio (readQ s rs1).toRatio (readQ s rs2).toRatio)) :=
  finishesG_of_exec (checkQQ_valid (rule := fun x y => finishG rd (word64 (cmpRatio x y)) s) h1 h2)

/-- Settles O51: the sign of the cross difference is the order of the values, and equal values have equal bits. -/
theorem qcmpWritesTheOrder : Obligations.QcmpWritesTheOrder := by
  intro s rd rs1 rs2 h1 h2 x y
  have hfin := finishesG_qcmp rd h1 h2
  refine ⟨fun hlt => ?_, fun heq => ?_, fun hgt => ?_, value_eq_iff_of_valid h1 h2⟩
  · rwa [cmpRatio_of_lt h1 h2 hlt] at hfin
  · rwa [heq, cmpRatio_self] at hfin
  · rwa [cmpRatio_of_gt h1 h2 hgt] at hfin

end Sys2Proof.Machine
end

section
/-! PROOFS. What one cycle does to each part of the state: the state after reset (10_state.md R46), an idle cycle (R30),
the fields of STATUS (R38 to R42), and the Q file (R37). -/

namespace Sys2Proof.Machine

/-! ### The state after reset -/

/-- Settles O11: every register word is 0, and 0/1 is the canonical zero. -/
theorem resetStateValues : Obligations.ResetStateValues := by
  have hzero : RatReg.valid ⟨0, 0⟩ = true ∧ RatReg.num ⟨0, 0⟩ = 0 ∧ RatReg.den ⟨0, 0⟩ = 1 := by decide
  refine ⟨readG_reset, fun i => ?_, rfl, by decide, by decide, by decide, by decide, rfl, rfl⟩
  rw [readQ_reset]
  exact ⟨rfl, rfl, hzero⟩

/-- STATUS 0 with the engine idle. -/
theorem statusInv_of_reset_values {s : State} (hst : s.status = 0) (he : s.engine = .idle) : StatusInv s := by
  constructor
  · rw [hst]
    decide
  · simp [hst, he, statusBusy]
  · rw [hst]
    decide

/-- Settles O17: STATUS is 0 and the engine is idle. -/
theorem statusInvAtReset : Obligations.StatusInvAtReset := statusInv_of_reset_values rfl rfl

/-! ### A host write -/

section
variable {a : HostAccess}

theorem access_eq_of_cmd (h : admittedReg a = some .cmd) : a = ⟨0xC0, 8, a.kind⟩ := by
  obtain ⟨off, bytes, kind⟩ := a
  by_cases hb : bytes = 8
  · simpa [admittedReg, hb, portReg_eq_cmd_iff] using h
  · simp [admittedReg, hb] at h

theorem access_eq_of_status (h : admittedReg a = some .status) : a = ⟨0xC8, 8, a.kind⟩ := by
  obtain ⟨off, bytes, kind⟩ := a
  by_cases hb : bytes = 8
  · simpa [admittedReg, hb, portReg_eq_status_iff] using h
  · simp [admittedReg, hb] at h

end

section
variable {r : PortReg} (v : Word) (s : State)

/-- Only a write to CMD starts the engine (R43). -/
theorem writePort_engine (h : r ≠ .cmd) : (writePort r v s).engine = s.engine := by
  cases r with
  | cmd => exact absurd rfl h
  | _ => rfl

/-- Only a write to CMD or STATUS touches STATUS. -/
theorem writePort_status (hc : r ≠ .cmd) (hs : r ≠ .status) : (writePort r v s).status = s.status := by
  cases r with
  | cmd => exact absurd rfl hc
  | status => exact absurd rfl hs
  | _ => rfl

/-- Only a write to a word of Q touches the Q file. -/
theorem writePort_q (h : ∀ i, r ≠ .qn i ∧ r ≠ .qdb i) : (writePort r v s).q = s.q := by
  cases r with
  | qn i => exact absurd rfl (h i).1
  | qdb i => exact absurd rfl (h i).2
  | _ => rfl

end

/-! ### What one cycle can do -/

section
variable {s t : State}

/-- An idle cycle moves the model's own two lists and nothing else, or performs a host write. -/
theorem idleCycle_lists_or_write (h : idleCycle s = .next t) :
    (∃ inputs returned, t = { s with inputs := inputs, returned := returned }) ∨
      ∃ a rest r v, s.inputs = .access a :: rest ∧ admittedReg a = some r ∧ a.kind = .write v ∧
        t = writePort r v { s with inputs := rest } := by
  rcases idleCycle_cases h with ⟨a, rest, hi, hp⟩ | ⟨-, rfl⟩
  · obtain ⟨r, hr, ⟨-, rfl⟩ | ⟨v, hk, rfl⟩⟩ := performAccess_cases hp
    · exact .inl ⟨_, _, rfl⟩
    · exact .inr ⟨a, rest, r, v, hi, hr, hk, rfl⟩
  · exact .inl ⟨_, _, rfl⟩

theorem step_of_wait {n : Nat} (hr : resetAsserted s = false) (he : s.engine = .executing (n + 1)) :
    step s = .next (waitCycle n s) := by
  simp [step, hr, he]

theorem step_of_complete (hr : resetAsserted s = false) (he : s.engine = .executing 0) : step s = completeCycle s := by
  simp [step, hr, he]

theorem completeCycle_of_ok {i : Instr} (h : decode s.cmd = .ok i) : completeCycle s = exec i (busyPort s) := by
  simp [completeCycle, fetchCommand, h]

theorem completeCycle_of_not_legal (h : legal s.cmd = false) :
    completeCycle s = .next (completeError .illegalCommand (busyPort s)) := by
  unfold legal at h
  cases hd : decode s.cmd with
  | ok i => simp [hd, Except.toBool] at h
  | error e => simp [completeCycle, fetchCommand, hd, raise]

/-- The command in execution ends in one of the two ways of 30_encoding.md R90. -/
theorem completeCycle_done_or_failed (h : completeCycle s = .next t) :
    (∃ g q b, Done (busyPort s) t g q b) ∨ ∃ e, e ≠ .invalidFormat ∧ Failed (busyPort s) t e := by
  rcases completeCycle_cases h with ⟨i, -, hx⟩ | ⟨e, -, rfl⟩
  · exact (exec_ended hx).done_or_failed
  · exact .inr ⟨.illegalCommand, by decide, failed_completeError _ _⟩

/-- Outside reset, a step that does not complete a command changes STATUS only by raising BUSY or by the host's write to
STATUS. -/
theorem step_status_of_not_completing (h : step s = .next t) (hr : resetAsserted s = false)
    (hc : s.engine ≠ .executing 0) :
    t.status = s.status ∨ t.status = withBusy s.status true ∨
      ∃ v rest, s.engine = .idle ∧ s.inputs = .access ⟨0xC8, 8, .write v⟩ :: rest ∧
        t.status = statusAfterHostWrite s.status v := by
  rcases step_cases h with ⟨hr', -⟩ | ⟨-, he, hidle⟩ | ⟨n, -, -, rfl⟩ | ⟨-, he, -⟩
  · exact absurd hr' (by simp [hr])
  · rcases idleCycle_lists_or_write hidle with ⟨_, _, rfl⟩ | ⟨a, rest, r, v, hi, ha, hk, rfl⟩
    · exact .inl rfl
    · by_cases hcmd : r = .cmd
      · subst hcmd
        exact .inr (.inl rfl)
      · by_cases hst : r = .status
        · subst hst
          rw [access_eq_of_status ha, hk] at hi
          exact .inr (.inr ⟨v, rest, he, hi, rfl⟩)
        · exact .inl (writePort_status v _ hcmd hst)
  · exact .inl (waitCycle_status s n)
  · exact absurd he hc

end

/-- Settles O58: an idle cycle leaves the engine idle unless it performs a write to CMD. -/
theorem idleEngineStartsNothingByItself : Obligations.IdleEngineStartsNothingByItself := by
  constructor
  · rintro s he (hi | ⟨rest, hi⟩) <;> simp [step, resetAsserted, idleCycle, he, hi]
  · intro s t he h hbusy
    rcases step_cases h with ⟨-, rfl⟩ | ⟨-, -, hidle⟩ | ⟨n, -, he', -⟩ | ⟨-, he', -⟩
    · exact absurd (resetCycle_engine s) hbusy
    · rcases idleCycle_lists_or_write hidle with ⟨_, _, rfl⟩ | ⟨a, rest, r, v, hi, ha, hk, rfl⟩
      · exact absurd he hbusy
      · have hcmd : r = .cmd := by
          by_contra hne
          exact hbusy ((writePort_engine v _ hne).trans he)
        subst hcmd
        rw [access_eq_of_cmd ha, hk] at hi
        exact ⟨v, rest, hi⟩
    · simp [he] at he'
    · simp [he] at he'

/-! ### The invariant of STATUS -/

section
variable {s t : State}

theorem StatusInv.of_same_status (h : StatusInv s) (hst : t.status = s.status)
    (he : t.engine = .idle ↔ s.engine = .idle) : StatusInv t where
  reserved := by rw [hst, h.reserved]
  busy := by rw [hst, h.busy, ne_eq, ne_eq, he]
  err := by rw [hst]; exact h.err

theorem statusInv_writePort (h : StatusInv s) (r : PortReg) (v : Word) : StatusInv (writePort r v s) := by
  cases r with
  | cmd =>
    exact ⟨by simp [writePort, h.reserved], by simp [writePort], by simpa [writePort] using h.err⟩
  | status =>
    exact ⟨by simp [writePort, h.reserved], by simp [writePort, h.busy], by simpa [writePort] using h.err⟩
  | _ => exact h.of_same_status rfl Iff.rfl

/-- STATUS when a command has ended: BUSY is 0 and the engine is idle, whichever way it ended. -/
theorem statusInv_of_ended {e : BitVec 3} (hres : statusReserved t.status = 0) (hbusy : statusBusy t.status = false)
    (he : t.engine = .idle) (herr : statusErr t.status = e) (hne : e ≠ 5) : StatusInv t :=
  ⟨hres, by simp [hbusy, he], herr ▸ hne⟩

theorem errCode_ne_five {e : ErrKind} (h : e ≠ .invalidFormat) : errCode e ≠ 5 :=
  fun hcode => h (errCode_injective e .invalidFormat hcode)

theorem statusInv_completeCycle (h : StatusInv s) (hc : completeCycle s = .next t) : StatusInv t := by
  have hres : statusReserved (busyPort s).status = 0 := by rw [busyPort_status, h.reserved]
  rcases completeCycle_done_or_failed hc with ⟨g, q, b, hd⟩ | ⟨e, hne, hf⟩
  · exact statusInv_of_ended (hd.reserved.trans hres) hd.busy hd.engine hd.err (by decide)
  · exact statusInv_of_ended (hf.reserved.trans hres) hf.busy hf.engine hf.err (errCode_ne_five hne)

end

/-- Settles O18, by what each kind of cycle does to STATUS and the engine. -/
theorem stepKeepsStatusInv : Obligations.StepKeepsStatusInv := by
  intro s t h hstep
  rcases step_cases hstep with ⟨-, rfl⟩ | ⟨-, -, hidle⟩ | ⟨n, -, he, rfl⟩ | ⟨-, -, hc⟩
  · exact statusInv_of_reset_values rfl rfl
  · rcases idleCycle_lists_or_write hidle with ⟨_, _, rfl⟩ | ⟨a, rest, r, v, -, -, -, rfl⟩
    · exact h.of_same_status rfl Iff.rfl
    · have h' : StatusInv { s with inputs := rest } := h.of_same_status rfl Iff.rfl
      exact statusInv_writePort h' r v
  · exact h.of_same_status (waitCycle_status s n) (by simp [he])
  · exact statusInv_completeCycle h hc

/-! ### The fields of STATUS -/

/-- Settles O26: neither BUSY nor ESTICKY is part of ERR, and a completing command ends in one of two ways. -/
theorem errHoldsUntilACommandCompletes : Obligations.ErrHoldsUntilACommandCompletes := by
  intro s t h hr
  refine ⟨fun hc => ?_, fun he hl => ?_, fun i he hd => ?_⟩
  · rcases step_status_of_not_completing h hr hc with hst | hst | ⟨v, rest, -, -, hst⟩ <;> simp [hst]
  · rw [step_of_complete hr he, completeCycle_of_not_legal hl] at h
    cases h
    exact failed_completeError _ _
  · rw [step_of_complete hr he] at h
    rcases completeCycle_done_or_failed h with ⟨g, q, b, hdone⟩ | ⟨e, -, hfail⟩
    · exact .inl ⟨hdone.err, g, q, b, hdone⟩
    · exact .inr ⟨e, hfail.err, hfail⟩

/-- A Q2F of a valid source writes the flag of 43_convert.md R201. -/
theorem statusExact_of_exec_q2f {s t : State} {rd : GReg} {rs1 : QReg} (hv : (readQ s rs1).valid = true)
    (h : exec (.q2f rd rs1) s = .next t) : statusExact t.status = exactFlag (readQ s rs1).toRatio := by
  change execQ2f rd rs1 s = .next t at h
  rw [execQ2f, checkQ_valid hv] at h
  cases h
  simp [writeExact]

/-- Any other command, and a Q2F that reports an error, leaves EXACT (10_state.md R40). -/
theorem Ended.statusExact_eq {i : Instr} {s t : State} (h : Ended i s t)
    (hno : ¬∃ rd rs1, i = .q2f rd rs1 ∧ (readQ s rs1).valid = true) : statusExact t.status = statusExact s.status := by
  cases h with
  | reports he => simp
  | writesG g => simp
  | writesQ hx => simp
  | writesExact v hi hv => exact absurd ⟨_, _, hi, hv⟩ hno

theorem readQ_busyPort (s : State) (j : QReg) : readQ (busyPort s) j = readQ s j := by
  simp [readQ]

/-- Settles O27: of the ways a command can end, only the one of Q2F writes EXACT. -/
theorem exactIsWrittenOnlyByQ2f : Obligations.ExactIsWrittenOnlyByQ2f := by
  intro s t h hr
  constructor
  · intro rd rs1 he hd hv
    rw [step_of_complete hr he, completeCycle_of_ok hd] at h
    rw [← readQ_busyPort] at hv ⊢
    exact statusExact_of_exec_q2f hv h
  · intro hno
    by_cases he : s.engine = .executing 0
    · rw [step_of_complete hr he] at h
      rcases completeCycle_cases h with ⟨i, hd, hx⟩ | ⟨e, -, rfl⟩
      · have hkeep := (exec_ended hx).statusExact_eq fun ⟨rd, rs1, hi, hv⟩ =>
          hno ⟨rd, rs1, he, hi ▸ hd, by rwa [readQ_busyPort] at hv⟩
        rwa [busyPort_status] at hkeep
      · simp
    · rcases step_status_of_not_completing h hr he with hst | hst | ⟨v, rest, -, -, hst⟩ <;> simp [hst]

/-- ESTICKY after the completing cycle (R42). -/
theorem statusSticky_of_completeCycle {s t : State} (h : completeCycle s = .next t) :
    statusSticky t.status = (statusSticky s.status || statusErr t.status != 0) := by
  rcases completeCycle_done_or_failed h with ⟨g, q, b, hd⟩ | ⟨e, -, hf⟩
  · simp [hd.sticky, hd.err]
  · have hne : statusErr t.status ≠ 0 := hf.err.trans_ne (errCode_ne_zero e)
    rw [hf.sticky, bne_iff_ne.mpr hne, Bool.or_true]

/-- Settles O28: the completing cycle, the host's write to STATUS, and every other step in turn. -/
theorem stickyIsSetByErrorsAndClearedByTheHost : Obligations.StickyIsSetByErrorsAndClearedByTheHost := by
  refine ⟨fun s t hr he h => ?_, fun s v rest he hi => ?_, fun s t hr h hc hno => ?_⟩
  · rw [step_of_complete hr he] at h
    exact statusSticky_of_completeCycle h
  · have ha : admittedReg ⟨0xC8, 8, .write v⟩ = some .status := by simp [admittedReg, portReg_status]
    exact ⟨_, (step_of_idle_access he hi).trans (performAccess_of_write ha rfl), statusSticky_statusAfterHostWrite _ _⟩
  · rcases step_status_of_not_completing h hr hc with hst | hst | ⟨v, rest, he, hi, -⟩
    · rw [hst]
    · simp [hst]
    · exact absurd ⟨v, rest, he, hi⟩ hno

/-! ### The Q file -/

section
variable {s t : State}

theorem AllValid.of_same_q (h : AllValid s) (hq : t.q = s.q) : AllValid t := by
  intro j
  have hread : readQ t j = readQ s j := by simp [readQ, hq]
  rw [hread]
  exact h j

/-- A command keeps a valid Q file: even QMOV then copies a valid pattern. -/
theorem Ended.allValid {i : Instr} (h : Ended i s t) (hs : AllValid s) : AllValid t := by
  intro j
  rcases h.readQ_cases j with hq | hq | ⟨r, -, hq⟩
  · rw [hq]
    exact hs j
  · exact hq
  · rw [hq]
    exact hs r

theorem allValid_completeCycle (hs : AllValid s) (h : completeCycle s = .next t) : AllValid t := by
  have hport : AllValid (busyPort s) := hs.of_same_q (busyPort_q s)
  rcases completeCycle_cases h with ⟨i, -, hx⟩ | ⟨e, -, rfl⟩
  · exact (exec_ended hx).allValid hport
  · exact hport.of_same_q rfl

theorem allValid_resetCycle (s : State) : AllValid (resetCycle s) := by
  have hreset : AllValid State.reset := fun j => by
    rw [readQ_reset]
    decide
  exact hreset.of_same_q (resetCycle_q s)

end

/-- Settles O20: a command keeps the Q file valid, and only a write to a word of Q reaches it otherwise. -/
theorem stepKeepsQRegistersValid : Obligations.StepKeepsQRegistersValid := by
  intro s t hs hno h
  rcases step_cases h with ⟨-, rfl⟩ | ⟨-, -, hidle⟩ | ⟨n, -, -, rfl⟩ | ⟨-, -, hc⟩
  · exact allValid_resetCycle s
  · rcases idleCycle_lists_or_write hidle with ⟨_, _, rfl⟩ | ⟨a, rest, r, v, hi, ha, hk, rfl⟩
    · exact hs.of_same_q rfl
    · refine hs.of_same_q (writePort_q v _ fun i => ⟨?_, ?_⟩)
      · rintro rfl
        exact hno ⟨a, rest, i, v, hi, hk, .inl ha⟩
      · rintro rfl
        exact hno ⟨a, rest, i, v, hi, hk, .inr ha⟩
  · exact hs.of_same_q (waitCycle_q s n)
  · exact allValid_completeCycle hs hc

end Sys2Proof.Machine
end

section
/-! PROOFS. A command depends on the registers only (10_state.md R41, 20_memory.md R66): neither the countdown nor what
the host presents meanwhile changes what the completing cycle does. -/

namespace Sys2Proof.Machine

/-- The two states hold the same in every register; the engine and the model's own two lists may differ. -/
structure SameRegs (s t : State) : Prop where
  g : s.g = t.g
  q : s.q = t.q
  status : s.status = t.status
  cmd : s.cmd = t.cmd

/-- Two results are next states with the same registers. -/
inductive SameNext : Result → Result → Prop
  | next {s t : State} (h : SameRegs s t) : SameNext (.next s) (.next t)

/-! ### The shared operations -/

section
variable {s t : State} (h : SameRegs s t)
include h

theorem SameRegs.readG (r : GReg) : readG s r = readG t r := by simp [Machine.readG, h.g]

theorem SameRegs.readQ (r : QReg) : readQ s r = readQ t r := by simp [Machine.readQ, h.q]

theorem SameRegs.writeG (r : GReg) (v : Word) : SameRegs (writeG s r v) (writeG t r v) :=
  { h with g := by simp [h.g] }

theorem SameRegs.writeQ (r : QReg) (x : RatReg) : SameRegs (writeQ s r x) (writeQ t r x) :=
  { h with q := by simp [h.q] }

theorem SameRegs.writeExact (b : Bool) : SameRegs (writeExact s b) (writeExact t b) :=
  { h with status := by simp [Machine.writeExact, h.status] }

theorem SameRegs.raise (e : ErrKind) : SameNext (raise e s) (raise e t) :=
  .next { h with status := by simp [h.status] }

theorem SameRegs.finish : SameNext (finish s) (finish t) :=
  .next { h with status := by simp [h.status] }

theorem SameRegs.finishG (r : GReg) (v : Word) : SameNext (finishG r v s) (finishG r v t) := (h.writeG r v).finish

theorem SameRegs.finishQ (r : QReg) (x : RatReg) : SameNext (finishQ r x s) (finishQ r x t) := (h.writeQ r x).finish

theorem SameRegs.finishRatio (r : QReg) (p : Except ErrKind Ratio) :
    SameNext (finishRatio r p s) (finishRatio r p t) := by
  cases p with
  | ok p => exact h.finishQ r (storeRatio p)
  | error e => exact h.raise e

theorem SameRegs.checkQ (x : RatReg) {rule rule' : Ratio → Result} (hrule : ∀ p, SameNext (rule p) (rule' p)) :
    SameNext (checkQ x s rule) (checkQ x t rule') := by
  unfold Machine.checkQ
  split
  · exact hrule _
  · exact h.raise _

theorem SameRegs.checkQQ (x y : RatReg) {rule rule' : Ratio → Ratio → Result}
    (hrule : ∀ p p', SameNext (rule p p') (rule' p p')) : SameNext (checkQQ x y s rule) (checkQQ x y t rule') :=
  h.checkQ x fun p => h.checkQ y (hrule p)

/-! ### The commands -/

theorem SameRegs.execXgcd (rd rs1 rs2 rd2 rd3 : GReg) :
    SameNext (execXgcd rd rs1 rs2 rd2 rd3 s) (execXgcd rd rs1 rs2 rd2 rd3 t) := by
  unfold Machine.execXgcd
  simp only [h.readG]
  split
  · split
    · exact (((h.writeG _ _).writeG _ _).writeG _ _).finish
    · exact h.raise _
  · exact h.raise _

theorem SameRegs.execGcd (rd rs1 rs2 : GReg) : SameNext (execGcd rd rs1 rs2 s) (execGcd rd rs1 rs2 t) := by
  unfold Machine.execGcd
  simp only [h.readG]
  split
  · exact h.finishG _ _
  · exact h.raise _

/-- A command reads and writes registers only. -/
theorem SameRegs.exec (i : Instr) : SameNext (exec i s) (exec i t) := by
  unfold Machine.exec
  cases i with
  | nop => exact h.finish
  | xgcd rd rs1 rs2 rd2 rd3 => exact h.execXgcd rd rs1 rs2 rd2 rd3
  | gcd rd rs1 rs2 => exact h.execGcd rd rs1 rs2
  | qnew rd rs1 rs2 => simpa only [execQnew, h.readG] using h.finishRatio rd _
  | qvalid rd rs1 => simpa only [execQvalid, h.readQ] using h.finishG rd _
  | qnum rd rs1 => simpa only [execQnum, h.readQ] using h.checkQ _ fun _ => h.finishG rd _
  | qden rd rs1 => simpa only [execQden, h.readQ] using h.checkQ _ fun _ => h.finishG rd _
  | qsgn rd rs1 => simpa only [execQsgn, h.readQ] using h.checkQ _ fun _ => h.finishG rd _
  | qisz rd rs1 => simpa only [execQisz, h.readQ] using h.checkQ _ fun _ => h.finishG rd _
  | qmov rd rs1 => simpa only [execQmov, h.readQ] using h.finishQ rd _
  | qadd rd rs1 rs2 => simpa only [execQadd, h.readQ] using h.checkQQ _ _ fun _ _ => h.finishRatio rd _
  | qsub rd rs1 rs2 => simpa only [execQsub, h.readQ] using h.checkQQ _ _ fun _ _ => h.finishRatio rd _
  | qmul rd rs1 rs2 => simpa only [execQmul, h.readQ] using h.checkQQ _ _ fun _ _ => h.finishRatio rd _
  | qdiv rd rs1 rs2 => simpa only [execQdiv, h.readQ] using h.checkQQ _ _ fun _ _ => h.finishRatio rd _
  | qinv rd rs1 => simpa only [execQinv, h.readQ] using h.checkQ _ fun _ => h.finishRatio rd _
  | qneg rd rs1 => simpa only [execQneg, h.readQ] using h.checkQ _ fun _ => h.finishQ rd _
  | qabs rd rs1 => simpa only [execQabs, h.readQ] using h.checkQ _ fun _ => h.finishQ rd _
  | qcmp rd rs1 rs2 => simpa only [execQcmp, h.readQ] using h.checkQQ _ _ fun _ _ => h.finishG rd _
  | q2f rd rs1 =>
    simpa only [execQ2f, h.readQ] using h.checkQ _ fun _ => ((h.writeG rd _).writeExact _).finish
  | f2q rd rs1 => simpa only [execF2q, h.readG] using h.finishRatio rd _

/-- The completing cycle depends on the registers only, whatever the port does in it. -/
theorem SameRegs.completeCycle : SameNext (completeCycle s) (completeCycle t) := by
  have hport : SameRegs (busyPort s) (busyPort t) :=
    ⟨by simp [h.g], by simp [h.q], by simp [h.status], by simp [h.cmd]⟩
  unfold Machine.completeCycle fetchCommand
  rw [h.cmd]
  split
  · exact hport.exec _
  · exact hport.raise _

end

/-! ### The countdown -/

theorem sameRegs_refl (s : State) : SameRegs s s := ⟨rfl, rfl, rfl, rfl⟩

/-- The completing cycle always answers a next state. -/
theorem completeCycle_next (s : State) : ∃ t, completeCycle s = .next t := by
  have h := (sameRegs_refl s).completeCycle
  generalize completeCycle s = r at h
  cases h
  exact ⟨_, rfl⟩

theorem completeCycle_idle {s t : State} (h : completeCycle s = .next t) :
    t.engine = .idle ∧ statusBusy t.status = false := by
  rcases completeCycle_done_or_failed h with ⟨g, q, b, hd⟩ | ⟨e, -, hf⟩
  · exact ⟨hd.engine, hd.busy⟩
  · exact ⟨hf.engine, hf.busy⟩

/-- The port takes entries off the list of inputs and adds none. -/
theorem busyPort_inputs_subset (s : State) : (busyPort s).inputs ⊆ s.inputs := by
  rcases busyPort_cases s with ⟨a, rest, hi, -, h⟩ | ⟨_, _, _, -, h⟩ | ⟨-, h⟩
  · rw [h, hi]
    exact List.subset_cons_self _ _
  · rw [h]
    exact List.Subset.refl _
  · rw [h]
    exact List.tail_subset _

theorem resetAsserted_of_not_mem {s : State} (h : Input.reset ∉ s.inputs) : resetAsserted s = false := by
  unfold resetAsserted
  split
  · rename_i hi
    simp [hi] at h
  · rfl

/-- The first of `k + 1` steps of any machine. -/
theorem run_succ_of_step (M : Host.Core) {s t : M.State} (h : M.step s = .next t) (k : Nat) :
    M.run (k + 1) s = M.run k t := by
  simp only [Host.Core.run, h]

theorem run_succ {s t : State} (h : step s = .next t) (k : Nat) :
    Host.Core.run Sys2Proof.core (k + 1) s = Host.Core.run Sys2Proof.core k t :=
  run_succ_of_step Sys2Proof.core h k

/-- A command in execution with `n` cycles before its last: the run ends in a completing cycle that starts from the same
registers. -/
theorem run_completes (n : Nat) (s : State) (he : s.engine = .executing n) (hi : Input.reset ∉ s.inputs) :
    ∃ s' t, SameRegs s s' ∧ completeCycle s' = .next t ∧ Host.Core.run Sys2Proof.core (n + 1) s = .next t := by
  induction n generalizing s with
  | zero =>
    obtain ⟨t, ht⟩ := completeCycle_next s
    have hstep : step s = .next t := (step_of_complete (resetAsserted_of_not_mem hi) he).trans ht
    exact ⟨s, t, sameRegs_refl s, ht, run_succ hstep 0⟩
  | succ n ih =>
    have hstep := step_of_wait (resetAsserted_of_not_mem hi) he
    obtain ⟨s', t, hsame, ht, hrun⟩ := ih (waitCycle n s) rfl fun hmem => hi (busyPort_inputs_subset s hmem)
    obtain ⟨hg, hq, hst, hcmd⟩ := hsame
    rw [waitCycle_g] at hg
    rw [waitCycle_q] at hq
    rw [waitCycle_status] at hst
    rw [waitCycle_cmd] at hcmd
    exact ⟨s', t, ⟨hg, hq, hst, hcmd⟩, ht, (run_succ hstep (n + 1)).trans hrun⟩

/-- Settles O9, by induction on the cycles left: a waiting cycle changes no register, and the completing cycle depends
on nothing else. -/
theorem commandCompletesAtomically : Obligations.CommandCompletesAtomically := by
  intro n s he hi
  obtain ⟨s', t, hsame, ht, hrun⟩ := run_completes n s he hi
  obtain ⟨u, hu⟩ := completeCycle_next s
  have hnext := hsame.completeCycle
  rw [hu, ht] at hnext
  obtain ⟨⟨hg, hq, hst, hcmd⟩⟩ := hnext
  obtain ⟨hidle, hbusy⟩ := completeCycle_idle ht
  exact ⟨t, u, hrun, hu, hg.symm, hq.symm, hst.symm, hcmd.symm, hidle, hbusy⟩

end Sys2Proof.Machine
end

section
/-! PROOFS. The register window seen by the host (20_memory.md): what a read and a write of each offset do with the
engine idle (R62, R65), what becomes of an access while a command executes (R64, R66), and the bytes (R61, R63). -/

namespace Sys2Proof.Machine

/-! ### The register map read backwards -/

section
variable {off : Nat}

/-- Every offset of the map is aligned and its word ends inside the window (R61). -/
theorem portReg_range {r : PortReg} (h : portReg off = some r) : off % 8 = 0 ∧ off ≤ 0xF8 := by
  have hne : ¬(off % 8 ≠ 0 ∨ 0xFF < off) := fun hbad => by simp [(portReg_none_iff off).mpr hbad] at h
  omega

/-- What the map of R62 can answer, and at which offset. -/
theorem portReg_cases {r : PortReg} (h : portReg off = some r) :
    (∃ i, r = .g i ∧ off = 8 * i.val) ∨ (∃ i, r = .qn i ∧ off = 0x40 + 16 * i.val) ∨
      (∃ i, r = .qdb i ∧ off = 0x48 + 16 * i.val) ∨ (r = .cmd ∧ off = 0xC0) ∨ (r = .status ∧ off = 0xC8) ∨
      (r = .reserved ∧ 0xD0 ≤ off) := by
  obtain ⟨halign, hoff⟩ := portReg_range h
  unfold portReg at h
  rw [if_neg (by omega)] at h
  split at h
  · cases h
    exact .inl ⟨_, rfl, by simp only [Fin.ofNat]; omega⟩
  split at h
  · split at h
    · cases h
      exact .inr (.inl ⟨_, rfl, by simp only [Fin.ofNat]; omega⟩)
    · cases h
      exact .inr (.inr (.inl ⟨_, rfl, by simp only [Fin.ofNat]; omega⟩))
  split at h
  · cases h
    exact .inr (.inr (.inr (.inl ⟨rfl, ‹_›⟩)))
  split at h
  · cases h
    exact .inr (.inr (.inr (.inr (.inl ⟨rfl, ‹_›⟩))))
  · cases h
    exact .inr (.inr (.inr (.inr (.inr ⟨rfl, by omega⟩))))

end

/-! ### Admitted accesses with the engine idle -/

section
variable {s : State} {a : HostAccess} {r : PortReg} {off : Nat}

theorem admittedReg_of_portReg {kind : AccessKind} (h : portReg off = some r) :
    admittedReg ⟨off, 8, kind⟩ = some r := by
  simp [admittedReg, h]

/-- R64: narrow, unaligned and out of the window are the three ways not to be admitted. -/
theorem admittedReg_eq_none_iff : admittedReg a = none ↔ a.bytes ≠ 8 ∨ a.off % 8 ≠ 0 ∨ 0xFF < a.off := by
  rw [← portReg_none_iff]
  by_cases hb : a.bytes = 8 <;> simp [admittedReg, hb]

/-- An admitted read returns the register's word (R62). -/
theorem performAccess_of_read (hr : admittedReg a = some r) (hk : a.kind = .read) :
    performAccess a s = .next (returnWord (readPort s r) s) := by
  simp [performAccess, hr, hk]

theorem performAccess_of_not_admitted (h : admittedReg a = none) :
    performAccess a s = .fault (.accessNotAdmitted a) := by
  simp [performAccess, h]

/-- What a register reads as does not depend on the inputs to come. -/
@[simp] theorem readPort_withInputs (rest : List Input) (r : PortReg) :
    readPort { s with inputs := rest } r = readPort s r := by
  cases r <;> rfl

/-- What a register write does to the registers does not depend on the inputs to come. -/
theorem writePort_withInputs (rest : List Input) (r : PortReg) (v : Word) :
    writePort r v { s with inputs := rest } = { writePort r v s with inputs := rest } := by
  cases r <;> rfl

theorem readReturns_of_portReg (he : s.engine = .idle) (h : portReg off = some r) :
    ReadReturns s off (readPort s r) := by
  intro rest hi
  rw [step_of_idle_access he hi, performAccess_of_read (admittedReg_of_portReg h) rfl, readPort_withInputs, returnWord]

theorem writeGives_of_portReg (v : Word) (he : s.engine = .idle) (h : portReg off = some r) :
    WriteGives s off v (writePort r v s) := by
  intro rest hi
  rw [step_of_idle_access he hi, performAccess_of_write (admittedReg_of_portReg h) rfl, writePort_withInputs]

end

/-- Settles O14: the map of R62, offset by offset. -/
theorem portReadsReturnTheMappedRegister : Obligations.PortReadsReturnTheMappedRegister := fun _ he =>
  ⟨fun i => readReturns_of_portReg he (portReg_g i), fun i => readReturns_of_portReg he (portReg_qn i),
    fun i => readReturns_of_portReg he (portReg_qdb i), readReturns_of_portReg he portReg_cmd,
    readReturns_of_portReg he portReg_status, fun k hk => readReturns_of_portReg he (portReg_reserved ⟨k, hk⟩)⟩

/-- The clearing of ESTICKY as a mask: every bit but bit 5 stays (10_state.md R38). -/
theorem statusAfterHostWrite_eq_mask (st v : Word) :
    statusAfterHostWrite st v = if v.getLsbD 5 then st &&& 0xFFFFFFFFFFFFFFDF#64 else st := by
  have hmask : ~~~(1#64 <<< 5) = 0xFFFFFFFFFFFFFFDF#64 := by decide
  simp [statusAfterHostWrite, withSticky, withBit, ← hmask]

/-- Settles O15: the map of R62, offset by offset; for STATUS the written value is a mask (R38). -/
theorem portWritesReachTheMappedRegister : Obligations.PortWritesReachTheMappedRegister := by
  intro s v he
  refine ⟨fun i => writeGives_of_portReg v he (portReg_g i), fun i => writeGives_of_portReg v he (portReg_qn i),
    fun i => writeGives_of_portReg v he (portReg_qdb i), ?_,
    fun k hk => writeGives_of_portReg v he (portReg_reserved ⟨k, hk⟩)⟩
  rw [← statusAfterHostWrite_eq_mask]
  exact writeGives_of_portReg v he portReg_status

/-! ### The port while a command executes -/

section
variable {s t : State} {a : HostAccess} {rest : List Input}

theorem resetAsserted_of_access (hi : s.inputs = .access a :: rest) : resetAsserted s = false := by
  simp [resetAsserted, hi]

/-- A read of STATUS is performed at once (R66). -/
theorem busyPort_of_statusRead (hi : s.inputs = .access ⟨0xC8, 8, .read⟩ :: rest) :
    busyPort s = { returnWord s.status s with inputs := rest } := by
  simp [busyPort, hi, (isStatusRead_iff _).mpr rfl]

/-- Every other access is held (R66; log 5 for one that is not admitted). -/
theorem busyPort_of_held (hi : s.inputs = .access a :: rest) (ha : a ≠ ⟨0xC8, 8, .read⟩) : busyPort s = s := by
  have hno : isStatusRead a = false := Bool.eq_false_iff.mpr fun h => ha ((isStatusRead_iff a).mp h)
  simp [busyPort, hi, hno]

/-- Without an access the cycle takes one entry of the list (log 1). -/
theorem busyPort_of_no_access (h : ∀ a rest, s.inputs ≠ .access a :: rest) :
    busyPort s = { s with inputs := s.inputs.tail } := by
  rcases busyPort_cases s with ⟨a, rest, hi, -⟩ | ⟨a, rest, hi, -⟩ | ⟨-, hport⟩
  · exact absurd hi (h a rest)
  · exact absurd hi (h a rest)
  · exact hport

/-- The completing cycle leaves CMD, and the two lists as the port's part of it leaves them. -/
theorem completeCycle_frame (h : completeCycle s = .next t) :
    t.cmd = s.cmd ∧ t.inputs = (busyPort s).inputs ∧ t.returned = (busyPort s).returned := by
  rcases completeCycle_done_or_failed h with ⟨g, q, b, hd⟩ | ⟨e, -, hf⟩
  · exact ⟨hd.cmd.trans (busyPort_cmd s), hd.inputs, hd.returned⟩
  · exact ⟨hf.cmd.trans (busyPort_cmd s), hf.inputs, hf.returned⟩

/-- Every cycle of an executing command, the last one included, answers a next state; it leaves CMD, and the two lists
as the port's part of it leaves them. -/
theorem step_of_executing {n : Nat} (he : s.engine = .executing n) (hr : resetAsserted s = false) :
    ∃ t, step s = .next t ∧ t.cmd = s.cmd ∧ t.inputs = (busyPort s).inputs ∧ t.returned = (busyPort s).returned := by
  cases n with
  | zero =>
    obtain ⟨t, ht⟩ := completeCycle_next s
    exact ⟨t, (step_of_complete hr he).trans ht, completeCycle_frame ht⟩
  | succ m => exact ⟨_, step_of_wait hr he, waitCycle_cmd s m, rfl, rfl⟩

/-- In the completing cycle, G, Q and STATUS become what they become when the host does nothing. -/
theorem completing_step_without_inputs (he : s.engine = .executing 0) (hr : resetAsserted s = false)
    (h : step s = .next t) :
    t.engine = .idle ∧
      ∃ u, step { s with inputs := [] } = .next u ∧ t.g = u.g ∧ t.q = u.q ∧ t.status = u.status := by
  rw [step_of_complete hr he] at h
  have hsame : SameRegs s { s with inputs := [] } := ⟨rfl, rfl, rfl, rfl⟩
  have hnext := hsame.completeCycle
  obtain ⟨u, hu⟩ := completeCycle_next { s with inputs := [] }
  rw [h, hu] at hnext
  obtain ⟨⟨hg, hq, hst, -⟩⟩ := hnext
  exact ⟨(completeCycle_idle h).1, u, (step_of_complete (s := { s with inputs := [] }) rfl he).trans hu, hg, hq, hst⟩

end

/-- Settles O8: the lists follow `busyPort`, the registers the kind of the cycle. -/
theorem busyPortServesOnlyStatusReads : Obligations.BusyPortServesOnlyStatusReads := by
  intro s n he hr
  obtain ⟨t, hstep, hcmd, hin, hret⟩ := step_of_executing he hr
  refine ⟨t, hstep, hcmd, ?waiting, ?completing, fun a rest hi _ => ⟨?statusRead, fun ha => ?held⟩, fun hno => ?none⟩
  case waiting =>
    rintro m rfl
    rw [step_of_wait hr he] at hstep
    cases hstep
    exact ⟨waitCycle_g s m, waitCycle_q s m, waitCycle_status s m, rfl⟩
  case completing =>
    rintro rfl
    exact completing_step_without_inputs he hr hstep
  case statusRead =>
    rintro rfl
    rw [hin, hret, busyPort_of_statusRead hi]
    exact ⟨rfl, rfl⟩
  case held =>
    rw [hin, hret, busyPort_of_held hi ha]
    exact ⟨rfl, rfl⟩
  case none =>
    rw [hin, hret, busyPort_of_no_access hno]
    exact ⟨rfl, rfl⟩

/-- Settles O12: the port of an idle engine faults; that of an executing one holds the access, which is no read of
STATUS. -/
theorem notAdmittedAccessStopsTheHost : Obligations.NotAdmittedAccessStopsTheHost := by
  intro s a rest hi hbad
  have hnone := admittedReg_eq_none_iff.mpr hbad
  refine ⟨fun he => (step_of_idle_access he hi).trans (performAccess_of_not_admitted hnone), fun he => ?_⟩
  cases hen : s.engine with
  | idle => exact absurd hen he
  | executing n =>
    obtain ⟨t, hstep, -, hin, hret⟩ := step_of_executing hen (resetAsserted_of_access hi)
    have ha : a ≠ ⟨0xC8, 8, .read⟩ := by
      rintro rfl
      simp at hbad
    rw [busyPort_of_held hi ha] at hin hret
    exact ⟨t, hstep, hin, hret⟩

/-! ### Bytes of the window -/

/-- Settles O16: an offset of the map is a multiple of 8, so that off + k lies in the word at `off`. -/
theorem hostBytesAreLittleEndianLanes : Obligations.HostBytesAreLittleEndianLanes := by
  constructor
  · intro s off k r hr hk
    obtain ⟨halign, hoff⟩ := portReg_range hr
    have hin : Config.portBase ≤ Config.portBase + off + k ∧ Config.portBase + off + k < Config.portBase + 256 := by
      omega
    have hrel : Config.portBase + off + k - Config.portBase = off + k := by omega
    have hlane : (off + k) % 8 = k := by omega
    rw [hostByte, if_pos hin, hrel, portByte, hlane, Nat.add_sub_cancel, hr, Option.map_some]
  · intro s addr hout
    exact if_neg (by omega)

end Sys2Proof.Machine
end

section
/-! PROOFS. The frame of a command (30_encoding.md R86, R93): it changes no G and no Q register but its destinations,
once for all twenty commands, and what follows for the bytes of the window (20_memory.md R63). -/

namespace Sys2Proof.Machine

/-- `t` holds what `s` holds in every G register outside `gs` and every Q register outside `qs`. -/
structure SameOutside (gs : List GReg) (qs : List QReg) (s t : State) : Prop where
  g : ∀ j, j ∉ gs → readG t j = readG s j
  q : ∀ j, j ∉ qs → readQ t j = readQ s j

/-- A next state, if the result is one, holds what `s` holds outside `gs` and `qs`. -/
def WritesOnly (gs : List GReg) (qs : List QReg) (s : State) (r : Result) : Prop :=
  ∀ t, r = .next t → SameOutside gs qs s t

/-! ### The shared operations -/

section
variable {gs : List GReg} {qs : List QReg} {s u : State}

theorem sameOutside_refl : SameOutside gs qs s s := ⟨fun _ _ => rfl, fun _ _ => rfl⟩

theorem SameOutside.writeG {rd : GReg} (h : SameOutside gs qs s u) (hrd : rd ∈ gs) (v : Word) :
    SameOutside gs qs s (writeG u rd v) where
  g j hj := (readG_writeG_ne u rd j v (ne_of_mem_of_not_mem hrd hj)).trans (h.g j hj)
  q := h.q

theorem SameOutside.writeQ {rd : QReg} (h : SameOutside gs qs s u) (hrd : rd ∈ qs) (x : RatReg) :
    SameOutside gs qs s (writeQ u rd x) where
  g := h.g
  q j hj := (readQ_writeQ_ne u rd j x (ne_of_mem_of_not_mem hrd hj)).trans (h.q j hj)

theorem writesOnly_raise (e : ErrKind) : WritesOnly gs qs s (raise e s) := by
  rintro _ ⟨⟩
  exact ⟨fun _ _ => rfl, fun _ _ => rfl⟩

theorem writesOnly_finish (h : SameOutside gs qs s u) : WritesOnly gs qs s (finish u) := by
  rintro _ ⟨⟩
  exact ⟨h.g, h.q⟩

theorem writesOnly_finishG {rd : GReg} (hrd : rd ∈ gs) (v : Word) : WritesOnly gs qs s (finishG rd v s) :=
  writesOnly_finish (sameOutside_refl.writeG hrd v)

theorem writesOnly_finishQ {rd : QReg} (hrd : rd ∈ qs) (x : RatReg) : WritesOnly gs qs s (finishQ rd x s) :=
  writesOnly_finish (sameOutside_refl.writeQ hrd x)

theorem writesOnly_finishRatio {rd : QReg} (hrd : rd ∈ qs) (p : Except ErrKind Ratio) :
    WritesOnly gs qs s (finishRatio rd p s) := by
  cases p with
  | ok p => exact writesOnly_finishQ hrd _
  | error e => exact writesOnly_raise e

theorem writesOnly_checkQ {x : RatReg} {rule : Ratio → Result} (h : ∀ p, WritesOnly gs qs s (rule p)) :
    WritesOnly gs qs s (checkQ x s rule) := by
  unfold checkQ
  split
  · exact h _
  · exact writesOnly_raise _

theorem writesOnly_checkQQ {x y : RatReg} {rule : Ratio → Ratio → Result} (h : ∀ p p', WritesOnly gs qs s (rule p p')) :
    WritesOnly gs qs s (checkQQ x y s rule) :=
  writesOnly_checkQ fun p => writesOnly_checkQ (h p)

/-! ### The commands -/

theorem writesOnly_execXgcd {rd rs1 rs2 rd2 rd3 : GReg} (h1 : rd ∈ gs) (h2 : rd2 ∈ gs) (h3 : rd3 ∈ gs) :
    WritesOnly gs qs s (execXgcd rd rs1 rs2 rd2 rd3 s) := by
  unfold execXgcd
  dsimp only
  split
  · split
    · exact writesOnly_finish (((sameOutside_refl.writeG h1 _).writeG h2 _).writeG h3 _)
    · exact writesOnly_raise _
  · exact writesOnly_raise _

theorem writesOnly_execGcd {rd rs1 rs2 : GReg} (hrd : rd ∈ gs) : WritesOnly gs qs s (execGcd rd rs1 rs2 s) := by
  unfold execGcd
  dsimp only
  split
  · exact writesOnly_finishG hrd _
  · exact writesOnly_raise _

theorem writesOnly_execQ2f {rd : GReg} {rs1 : QReg} (hrd : rd ∈ gs) : WritesOnly gs qs s (execQ2f rd rs1 s) :=
  writesOnly_checkQ fun _ =>
    have h := sameOutside_refl.writeG hrd _
    writesOnly_finish ⟨h.g, h.q⟩

end

/-- Every command writes its destinations only. -/
theorem writesOnly_exec (i : Instr) (s : State) : WritesOnly (gDests i) (qDests i) s (exec i s) := by
  unfold exec
  cases i with
  | nop => exact writesOnly_finish sameOutside_refl
  | xgcd rd rs1 rs2 rd2 rd3 => exact writesOnly_execXgcd (by simp [gDests]) (by simp [gDests]) (by simp [gDests])
  | gcd rd => exact writesOnly_execGcd (List.mem_singleton_self rd)
  | qnew rd => exact writesOnly_finishRatio (List.mem_singleton_self rd) _
  | qvalid rd => exact writesOnly_finishG (List.mem_singleton_self rd) _
  | qnum rd => exact writesOnly_checkQ fun _ => writesOnly_finishG (List.mem_singleton_self rd) _
  | qden rd => exact writesOnly_checkQ fun _ => writesOnly_finishG (List.mem_singleton_self rd) _
  | qsgn rd => exact writesOnly_checkQ fun _ => writesOnly_finishG (List.mem_singleton_self rd) _
  | qisz rd => exact writesOnly_checkQ fun _ => writesOnly_finishG (List.mem_singleton_self rd) _
  | qmov rd => exact writesOnly_finishQ (List.mem_singleton_self rd) _
  | qadd rd => exact writesOnly_checkQQ fun _ _ => writesOnly_finishRatio (List.mem_singleton_self rd) _
  | qsub rd => exact writesOnly_checkQQ fun _ _ => writesOnly_finishRatio (List.mem_singleton_self rd) _
  | qmul rd => exact writesOnly_checkQQ fun _ _ => writesOnly_finishRatio (List.mem_singleton_self rd) _
  | qdiv rd => exact writesOnly_checkQQ fun _ _ => writesOnly_finishRatio (List.mem_singleton_self rd) _
  | qinv rd => exact writesOnly_checkQ fun _ => writesOnly_finishRatio (List.mem_singleton_self rd) _
  | qneg rd => exact writesOnly_checkQ fun _ => writesOnly_finishQ (List.mem_singleton_self rd) _
  | qabs rd => exact writesOnly_checkQ fun _ => writesOnly_finishQ (List.mem_singleton_self rd) _
  | qcmp rd => exact writesOnly_checkQQ fun _ _ => writesOnly_finishG (List.mem_singleton_self rd) _
  | q2f rd => exact writesOnly_execQ2f (List.mem_singleton_self rd)
  | f2q rd => exact writesOnly_finishRatio (List.mem_singleton_self rd) _

/-! ### Bytes -/

section
variable {i : Instr} {s t : State}

/-- A command never writes CMD (10_state.md R43). -/
theorem exec_cmd (h : exec i s = .next t) : t.cmd = s.cmd := by
  rcases (exec_ended h).done_or_failed with ⟨g, q, b, hd⟩ | ⟨e, -, hf⟩
  · exact hd.cmd
  · exact hf.cmd

theorem mem_destOffsets_g {r : GReg} (h : r ∈ gDests i) : 8 * r.val ∈ destOffsets i :=
  List.mem_append_left _ (List.mem_map.mpr ⟨r, h, rfl⟩)

theorem mem_destOffsets_qn {r : QReg} (h : r ∈ qDests i) : 0x40 + 16 * r.val ∈ destOffsets i :=
  List.mem_append_right _ (List.mem_append_left _ (List.mem_map.mpr ⟨r, h, rfl⟩))

theorem mem_destOffsets_qdb {r : QReg} (h : r ∈ qDests i) : 0x48 + 16 * r.val ∈ destOffsets i :=
  List.mem_append_right _ (List.mem_append_right _ (List.mem_map.mpr ⟨r, h, rfl⟩))

/-- A command leaves the word of every register of the map but STATUS and its destinations (20_memory.md R62). -/
theorem readPort_exec {off : Nat} {r : PortReg} (h : exec i s = .next t) (hr : portReg off = some r)
    (hdest : off ∉ destOffsets i) (hst : off ≠ 0xC8) : readPort t r = readPort s r := by
  have hsame := writesOnly_exec i s t h
  rcases portReg_cases hr with ⟨j, rfl, rfl⟩ | ⟨j, rfl, rfl⟩ | ⟨j, rfl, rfl⟩ | ⟨rfl, -⟩ | ⟨-, hoff⟩ | ⟨rfl, -⟩
  · exact hsame.g j fun hj => hdest (mem_destOffsets_g hj)
  · exact congrArg RatReg.n (hsame.q j fun hj => hdest (mem_destOffsets_qn hj))
  · exact congrArg RatReg.db (hsame.q j fun hj => hdest (mem_destOffsets_qdb hj))
  · exact exec_cmd h
  · exact absurd hoff hst
  · rfl

end

/-- Settles O25: the byte at `a` belongs to the word at `a` rounded down to a multiple of 8, which is no destination's
and not STATUS. -/
theorem commandsLeaveOtherPortBytes : Obligations.CommandsLeaveOtherPortBytes := by
  intro i s t a h _ hdest hst
  unfold portByte
  cases hr : portReg (a - a % 8) with
  | none => rfl
  | some r =>
    have hoff : a - a % 8 ∉ destOffsets i := fun hmem => by
      have := hdest _ hmem
      omega
    rw [Option.map_some, Option.map_some, readPort_exec h hr hoff (by omega)]

end Sys2Proof.Machine
end

section
/-! PROOFS. Format C32 (30_encoding.md R80 to R88): a Legal CMD value is the command word of its own fields, the operand
forms of R86's rows, the two round trips between commands and CMD values, and R87's mask test. -/

namespace Sys2Proof

/-! ### A value that format C32 admits is the command word of its fields -/

section
variable {v : BitVec 64}

/-- A bit of a register field (R82). -/
theorem testBit_regOf_extract (v : BitVec 64) (k i : Nat) :
    (regOf (v.extractLsb' k 3)).val.testBit i = (decide (i < 3) && v.getLsbD (k + i)) :=
  BitVec.getLsbD_extractLsb' ..

/-- Bits 31:27, in R87 condition 3, and bits 63:32, in condition 1, one by one. -/
theorem getLsbD_eq_false_of_extract_eq_zero {k n j : Nat} (h : v.extractLsb' k n = 0) (hk : k ≤ j) (hj : j < k + n) :
    v.getLsbD j = false := by
  have hbit : (v.extractLsb' k n).getLsbD (j - k) = false := by simp [h]
  have hlt : j - k < n := by omega
  have hsum : k + (j - k) = j := by omega
  simpa [BitVec.getLsbD_extractLsb', hlt, hsum] using hbit

/-- With R87 conditions 1 and 3, the opcode and the five register fields hold every bit that is not 0. -/
theorem eq_commandWord (hhigh : v.extractLsb' 32 32 = 0#32) (hres : reservedClear v = true) :
    v = commandWord (opcOf v) (regOf (fieldsOf v).rd) (regOf (fieldsOf v).rs1) (regOf (fieldsOf v).rs2)
      (regOf (fieldsOf v).rd2) (regOf (fieldsOf v).rd3) := by
  simp only [reservedClear, Bool.and_eq_true, Bool.not_eq_true', beq_iff_eq] at hres
  obtain ⟨⟨⟨⟨h11, h15⟩, h19⟩, h23⟩, htop⟩ := hres
  apply BitVec.eq_of_getLsbD_eq
  intro j hj
  simp only [getLsbD_commandWord, opcOf, fieldsOf, testBit_regOf_extract, BitVec.getLsbD_extractLsb']
  by_cases hlow : j < 27
  · interval_cases j <;> simp [-BitVec.getLsbD_eq_getElem, h11, h15, h19, h23]
  · have hzero : v.getLsbD j = false := by
      by_cases h32 : j < 32
      · exact getLsbD_eq_false_of_extract_eq_zero htop (by omega) (by omega)
      · exact getLsbD_eq_false_of_extract_eq_zero hhigh (by omega) (by omega)
    have hout : ¬ j < 8 ∧ ¬ j < 11 ∧ ¬ j < 15 ∧ ¬ j < 19 ∧ ¬ j < 23 := by omega
    simp [hzero, hlow, hout]

/-- Conditions 1 and 3 of R87 come first. -/
theorem decode_ok_iff {i : Instr} : decode v = .ok i ↔
    v.extractLsb' 32 32 = 0#32 ∧ reservedClear v = true ∧ decodeRow (opcOf v) (fieldsOf v) = .ok i := by
  by_cases hhigh : v.extractLsb' 32 32 = 0#32 <;> by_cases hres : reservedClear v = true <;>
    simp [decode, hhigh, hres]

theorem legal_iff : legal v = true ↔ ∃ i, decode v = .ok i := by
  unfold legal
  cases decode v <;> simp [Except.toBool]

end

/-! ### The operand forms -/

/-- Which register fields a row of R86 uses. -/
inductive OperandForm where
  | noFields
  | rdRs1
  | rdRs1Rs2
  | allFields

/-- The operand form of an assigned opcode (R86, R88). -/
def formOf (opc : BitVec 8) : Option OperandForm :=
  match opc with
  | 0x00#8 => some .noFields
  | 0x01#8 => some .allFields
  | 0x02#8 | 0x10#8 | 0x20#8 | 0x21#8 | 0x22#8 | 0x23#8 | 0x27#8 => some .rdRs1Rs2
  | 0x11#8 | 0x12#8 | 0x13#8 | 0x14#8 | 0x15#8 | 0x16#8 | 0x24#8 | 0x25#8 | 0x26#8 | 0x30#8 | 0x31#8 => some .rdRs1
  | _ => none

/-- The row of an opcode in the decoder, by operand form; for a form with free operands, the row's command is the one
that the encoder gives this opcode. -/
inductive DecoderRow (opc : BitVec 8) (f : Fields) : Option OperandForm → Except Illegal Instr → Prop
  | unassigned : DecoderRow opc f none (.error (.unassignedOpcode opc))
  | noFields (hopc : opc = 0x00#8) : DecoderRow opc f (some .noFields) (noOperands f .nop)
  | allFields (hopc : opc = 0x01#8) : DecoderRow opc f (some .allFields) (xgcdOperands f)
  | rdRs1 {i : Fin 8 → Fin 8 → Instr} (hopc : opc ≠ 0x01#8)
      (henc : ∀ rd rs1, encode (i rd rs1) = commandWord opc rd rs1 0 0 0 ∧ wellFormed (i rd rs1) = true) :
      DecoderRow opc f (some .rdRs1) (twoOperands f i)
  | rdRs1Rs2 {i : Fin 8 → Fin 8 → Fin 8 → Instr} (hopc : opc ≠ 0x01#8)
      (henc : ∀ rd rs1 rs2, encode (i rd rs1 rs2) = commandWord opc rd rs1 rs2 0 0 ∧ wellFormed (i rd rs1 rs2) = true) :
      DecoderRow opc f (some .rdRs1Rs2) (threeOperands f i)

theorem decoderRow (opc : BitVec 8) (f : Fields) : DecoderRow opc f (formOf opc) (decodeRow opc f) := by
  unfold decodeRow
  -- The cases are numbered by the order of the opcodes in R86.
  split
  case h_1 => exact .noFields rfl
  case h_2 => exact .allFields rfl
  case h_3 | h_4 | h_11 | h_12 | h_13 | h_14 | h_18 => exact .rdRs1Rs2 (by decide) fun _ _ _ => ⟨rfl, rfl⟩
  case h_21 =>
    have hnone : formOf opc = none := by
      unfold formOf
      split <;> simp_all
    rw [hnone]
    exact .unassigned
  all_goals exact .rdRs1 (by decide) fun _ _ => ⟨rfl, rfl⟩

/-! ### The round trips -/

section
variable {opc : BitVec 8} {f : Fields} {i : Instr}

theorem ite_ok_iff {p : Prop} [Decidable p] {e : Illegal} {j : Instr} :
    (if p then Except.ok j else .error e) = Except.ok i ↔ p ∧ j = i := by
  by_cases h : p <;> simp [h]

theorem noOperands_ok_iff {j : Instr} : noOperands f j = .ok i ↔ f = ⟨0, 0, 0, 0, 0⟩ ∧ j = i := ite_ok_iff

theorem twoOperands_ok_iff {j : Fin 8 → Fin 8 → Instr} : twoOperands f j = .ok i ↔
    (f.rs2 = 0 ∧ f.rd2 = 0 ∧ f.rd3 = 0) ∧ j (regOf f.rd) (regOf f.rs1) = i := ite_ok_iff

theorem threeOperands_ok_iff {j : Fin 8 → Fin 8 → Fin 8 → Instr} : threeOperands f j = .ok i ↔
    (f.rd2 = 0 ∧ f.rd3 = 0) ∧ j (regOf f.rd) (regOf f.rs1) (regOf f.rs2) = i := ite_ok_iff

theorem xgcdOperands_ok_iff : xgcdOperands f = .ok i ↔
    distinctDests (regOf f.rd) (regOf f.rd2) (regOf f.rd3) = true ∧
      .xgcd (regOf f.rd) (regOf f.rs1) (regOf f.rs2) (regOf f.rd2) (regOf f.rd3) = i := ite_ok_iff

/-- A row's command is encoded in the opcode and the fields it was read from; an unused field was 0. -/
theorem encode_of_decodeRow (h : decodeRow opc f = .ok i) :
    encode i = commandWord opc (regOf f.rd) (regOf f.rs1) (regOf f.rs2) (regOf f.rd2) (regOf f.rd3) ∧
      wellFormed i = true := by
  have hrow := decoderRow opc f
  rw [h] at hrow
  generalize formOf opc = form at hrow
  generalize hr : (Except.ok i : Except Illegal Instr) = r at hrow
  cases hrow with
  | unassigned => cases hr
  | noFields hopc =>
    obtain ⟨rfl, rfl⟩ := noOperands_ok_iff.mp hr.symm
    subst hopc
    exact ⟨rfl, rfl⟩
  | allFields hopc =>
    obtain ⟨hdist, rfl⟩ := xgcdOperands_ok_iff.mp hr.symm
    subst hopc
    exact ⟨rfl, hdist⟩
  | rdRs1 hopc henc =>
    obtain ⟨⟨h1, h2, h3⟩, rfl⟩ := twoOperands_ok_iff.mp hr.symm
    rw [h1, h2, h3]
    exact henc _ _
  | rdRs1Rs2 hopc henc =>
    obtain ⟨⟨h1, h2⟩, rfl⟩ := threeOperands_ok_iff.mp hr.symm
    rw [h1, h2]
    exact henc _ _ _

end

/-- Settles O2: the value is the command word of its fields, and its row's command is encoded in the same fields. -/
theorem decodeThenEncode : Obligations.DecodeThenEncode := by
  intro v i h
  obtain ⟨hhigh, hres, hrow⟩ := decode_ok_iff.mp h
  obtain ⟨henc, hwf⟩ := encode_of_decodeRow hrow
  exact ⟨henc.trans (eq_commandWord hhigh hres).symm, hwf⟩

section
variable {opc : BitVec 8}

theorem decode_twoOperands {i : Fin 8 → Fin 8 → Instr} (hrow : ∀ f, decodeRow opc f = twoOperands f i)
    (rd rs1 : Fin 8) : decode (commandWord opc rd rs1 0 0 0) = .ok (i rd rs1) := by
  rw [decode_commandWord, hrow]
  rfl

theorem decode_threeOperands {i : Fin 8 → Fin 8 → Fin 8 → Instr} (hrow : ∀ f, decodeRow opc f = threeOperands f i)
    (rd rs1 rs2 : Fin 8) : decode (commandWord opc rd rs1 rs2 0 0) = .ok (i rd rs1 rs2) := by
  rw [decode_commandWord, hrow]
  rfl

end

/-- Settles O1, row by row: a command word decodes to its row's command on the registers it was built from. -/
theorem encodeThenDecode : Obligations.EncodeThenDecode := by
  intro i hwf
  cases i with
  | nop => rfl
  | xgcd rd rs1 rs2 rd2 rd3 =>
    have hdist : distinctDests rd rd2 rd3 = true := hwf
    exact (decode_commandWord ..).trans (xgcdOperands_ok_iff.mpr ⟨hdist, rfl⟩)
  | gcd | qnew | qadd | qsub | qmul | qdiv | qcmp => exact decode_threeOperands (fun _ => rfl) _ _ _
  | qvalid | qnum | qden | qsgn | qisz | qmov | qinv | qneg | qabs | q2f | f2q =>
    exact decode_twoOperands (fun _ => rfl) _ _

/-- Settles O3: each word is the encoding of its command. -/
theorem specExampleWordsDecode : Obligations.SpecExampleWordsDecode :=
  ⟨encodeThenDecode (.qadd 2 0 1) rfl, encodeThenDecode (.xgcd 2 0 1 3 4) rfl, encodeThenDecode .nop rfl,
    encodeThenDecode (.qvalid 0 1) rfl, encodeThenDecode (.q2f 1 0) rfl⟩

/-! ### The mask test -/

/-- Bits k to k + n − 1 of a command word. -/
def fieldMask (k n : Nat) : BitVec 32 := BitVec.setWidth 32 (BitVec.allOnes n) <<< k

/-- The mask of the opcode and of the fields, given by their low bit and width, that must be 0. -/
def opcodeMask (zeros : List (Nat × Nat)) : BitVec 32 :=
  zeros.foldr (fun z m => m ||| fieldMask z.1 z.2) (fieldMask 0 8)

/-- The reserved bits of R87 condition 3: 11, 15, 19, 23 and 31:27. -/
def reservedFields : List (Nat × Nat) := [(11, 1), (15, 1), (19, 1), (23, 1), (27, 5)]

/-- The fields that R87 condition 4 wants 0. -/
def OperandForm.unused : OperandForm → List (Nat × Nat)
  | .noFields => [(8, 3), (12, 3), (16, 3), (20, 3), (24, 3)]
  | .rdRs1 => [(16, 3), (20, 3), (24, 3)]
  | .rdRs1Rs2 => [(20, 3), (24, 3)]
  | .allFields => []

/-- The fields hold 0. -/
def FieldsClear (zeros : List (Nat × Nat)) (v : BitVec 64) : Prop := ∀ z ∈ zeros, v.extractLsb' z.1 z.2 = 0

/-- The row of R86 for an opcode: its mask covers the opcode, the reserved bits and the unused fields. -/
def rowOf (opc : BitVec 8) : Option OpcodeRow :=
  (formOf opc).map fun form => ⟨opcodeMask (reservedFields ++ form.unused), opc.setWidth 32⟩

theorem mem_opcodeTable_iff {r : OpcodeRow} : r ∈ opcodeTable ↔ ∃ opc, rowOf opc = some r := by
  constructor
  · have hrows : ∀ r ∈ opcodeTable, rowOf (r.bits.setWidth 8) = some r := by decide
    exact fun hr => ⟨_, hrows r hr⟩
  · have hopcodes : ∀ opc, ∀ r ∈ rowOf opc, r ∈ opcodeTable := by decide
    rintro ⟨opc, hrow⟩
    exact hopcodes opc r hrow

section
variable {v : BitVec 64} {opc : BitVec 8} {zeros : List (Nat × Nat)}

@[simp] theorem fieldsClear_nil : FieldsClear [] v := by simp [FieldsClear]

@[simp] theorem fieldsClear_cons {k n : Nat} :
    FieldsClear ((k, n) :: zeros) v ↔ v.extractLsb' k n = 0 ∧ FieldsClear zeros v := List.forall_mem_cons

@[simp] theorem fieldsClear_append {zeros' : List (Nat × Nat)} :
    FieldsClear (zeros ++ zeros') v ↔ FieldsClear zeros v ∧ FieldsClear zeros' v := List.forall_mem_append

theorem getLsbD_fieldMask (k n j : Nat) :
    (fieldMask k n).getLsbD j = (decide (j < 32) && decide (k ≤ j) && decide (j < k + n)) := by
  rw [fieldMask, BitVec.getLsbD_shiftLeft, BitVec.getLsbD_setWidth, BitVec.getLsbD_allOnes, Bool.eq_iff_iff]
  simp only [Bool.and_eq_true, Bool.not_eq_true', decide_eq_true_eq, decide_eq_false_iff_not]
  omega

/-- A field mask cuts out the field and leaves it in place. -/
theorem and_fieldMask (v : BitVec 64) (k n : Nat) :
    v.setWidth 32 &&& fieldMask k n = (v.extractLsb' k n).setWidth 32 <<< k := by
  apply BitVec.eq_of_getLsbD_eq
  intro j hj
  simp only [BitVec.getLsbD_and, getLsbD_fieldMask, BitVec.getLsbD_shiftLeft, BitVec.getLsbD_setWidth,
    BitVec.getLsbD_extractLsb', hj, decide_true, Bool.true_and]
  by_cases hk : k ≤ j
  · have hsum : k + (j - k) = j := by omega
    have hfield : (j < k + n) = (j - k < n) := by
      rw [eq_iff_iff]
      omega
    have hjk : j - k < 32 := by omega
    simp [hk, hsum, hfield, hjk, Bool.and_comm]
  · simp [hk, not_le.mp hk]

theorem fieldInPlace_injective {k n : Nat} (h : k + n ≤ 32) {x y : BitVec n} :
    x.setWidth 32 <<< k = y.setWidth 32 <<< k ↔ x = y := by
  refine ⟨fun hxy => BitVec.eq_of_getLsbD_eq fun i hi => ?_, fun hxy => by rw [hxy]⟩
  have hbit := congrArg (·.getLsbD (k + i)) hxy
  have h32 : k + i < 32 := by omega
  have hi32 : i < 32 := by omega
  simpa [BitVec.getLsbD_shiftLeft, h32, hi32] using hbit

theorem and_opcode_fieldMask_eq_iff : v.setWidth 32 &&& fieldMask 0 8 = opc.setWidth 32 ↔ opcOf v = opc := by
  have hplace : opc.setWidth 32 = opc.setWidth 32 <<< 0 := (BitVec.shiftLeft_zero _).symm
  rw [and_fieldMask, hplace, fieldInPlace_injective (by omega), opcOf]

theorem and_fieldMask_eq_zero_iff {k n : Nat} (h : k + n ≤ 32) :
    v.setWidth 32 &&& fieldMask k n = 0 ↔ v.extractLsb' k n = 0 := by
  have hzero : (0 : BitVec 32) = (0 : BitVec n).setWidth 32 <<< k := by simp
  rw [and_fieldMask, hzero, fieldInPlace_injective h]

/-- The match of a row is 0 on every field. -/
theorem opcode_and_fieldMask {k : Nat} (n : Nat) (h : 8 ≤ k) : opc.setWidth 32 &&& fieldMask k n = 0 := by
  apply BitVec.eq_of_getLsbD_eq
  intro j hj
  by_cases hk : k ≤ j
  · simp [BitVec.getLsbD_of_ge opc j (h.trans hk)]
  · simp [getLsbD_fieldMask, hk]

/-- A mask can be tested in two parts if the match is 0 on the second. -/
theorem and_or_eq_iff {w : Nat} {c m n b : BitVec w} (h : b &&& n = 0) :
    c &&& (m ||| n) = b ↔ c &&& m = b ∧ c &&& n = 0 := by
  have hdist : c &&& (m ||| n) = c &&& m ||| c &&& n := BitVec.and_or_distrib_left ..
  constructor
  · intro hc
    have hn : c &&& n = 0 := by
      have habsorb : (m ||| n) &&& n = n := by
        ext j hj
        simpa using Or.inr
      calc c &&& n = c &&& ((m ||| n) &&& n) := by rw [habsorb]
        _ = b &&& n := by rw [← BitVec.and_assoc, hc]
        _ = 0 := h
    rw [hdist, hn] at hc
    exact ⟨by simpa using hc, hn⟩
  · rintro ⟨hm, hn⟩
    rw [hdist, hm, hn]
    simp

/-- The mask test of a row, field by field. -/
theorem and_opcodeMask_eq_iff (hz : ∀ z ∈ zeros, 8 ≤ z.1 ∧ z.1 + z.2 ≤ 32) :
    v.setWidth 32 &&& opcodeMask zeros = opc.setWidth 32 ↔ opcOf v = opc ∧ FieldsClear zeros v := by
  induction zeros with
  | nil => simpa [opcodeMask, FieldsClear] using and_opcode_fieldMask_eq_iff
  | cons z zs ih =>
    obtain ⟨⟨hlow, hhigh⟩, hzs⟩ := List.forall_mem_cons.mp hz
    have hcons : opcodeMask (z :: zs) = opcodeMask zs ||| fieldMask z.1 z.2 := rfl
    rw [hcons, and_or_eq_iff (opcode_and_fieldMask _ hlow), ih hzs, and_fieldMask_eq_zero_iff hhigh, fieldsClear_cons]
    tauto

theorem extract_one_eq_zero_iff {k : Nat} : v.extractLsb' k 1 = 0 ↔ v.getLsbD k = false := by
  refine ⟨fun h => getLsbD_eq_false_of_extract_eq_zero h le_rfl (Nat.lt_succ_self k), fun h => ?_⟩
  apply BitVec.eq_of_getLsbD_eq
  intro j hj
  obtain rfl : j = 0 := by omega
  simpa using h

theorem reservedClear_iff : reservedClear v = true ↔ FieldsClear reservedFields v := by
  simp only [reservedClear, reservedFields, fieldsClear_cons, fieldsClear_nil, extract_one_eq_zero_iff,
    Bool.and_eq_true, Bool.not_eq_true', beq_iff_eq, and_assoc, and_true]
  rfl

/-- The mask test of one row. -/
theorem row_holds_iff {form : OperandForm} :
    OpcodeRow.holds ⟨opcodeMask (reservedFields ++ form.unused), opc.setWidth 32⟩ (v.setWidth 32) = true ↔
      opcOf v = opc ∧ reservedClear v = true ∧ FieldsClear form.unused v := by
  have hz : ∀ z ∈ reservedFields ++ form.unused, 8 ≤ z.1 ∧ z.1 + z.2 ≤ 32 := by
    cases form <;> decide
  rw [OpcodeRow.holds, beq_iff_eq, and_opcodeMask_eq_iff hz, fieldsClear_append, ← reservedClear_iff]

/-- R87's mask test: conditions 2, 3 and 4. -/
theorem tableTest_iff : (∃ r ∈ opcodeTable, r.holds (v.setWidth 32) = true) ↔
    reservedClear v = true ∧ ∃ form, formOf (opcOf v) = some form ∧ FieldsClear form.unused v := by
  simp only [mem_opcodeTable_iff]
  constructor
  · rintro ⟨r, ⟨opc, hr⟩, hholds⟩
    obtain ⟨form, hform, rfl⟩ := Option.map_eq_some_iff.mp hr
    obtain ⟨rfl, hres, hclear⟩ := row_holds_iff.mp hholds
    exact ⟨hres, form, hform, hclear⟩
  · rintro ⟨hres, form, hform, hclear⟩
    exact ⟨_, ⟨opcOf v, Option.map_eq_some_iff.mpr ⟨form, hform, rfl⟩⟩, row_holds_iff.mpr ⟨rfl, hres, hclear⟩⟩

/-- Condition 5 of R87. -/
theorem distinctDests_iff {rd rd2 rd3 : GReg} :
    distinctDests rd rd2 rd3 = true ↔ rd ≠ rd2 ∧ rd ≠ rd3 ∧ rd2 ≠ rd3 := by
  simp [distinctDests, and_assoc]

theorem regOf_inj {a b : BitVec 3} : regOf a = regOf b ↔ a = b := ⟨BitVec.eq_of_toFin_eq, congrArg regOf⟩

theorem distinctDests_regOf_iff {a b c : BitVec 3} :
    distinctDests (regOf a) (regOf b) (regOf c) = true ↔ a ≠ b ∧ a ≠ c ∧ b ≠ c := by
  simp only [distinctDests_iff, ne_eq, regOf_inj]

/-- Conditions 2, 4 and 5 of R87 are those of the decoder's rows. -/
theorem decodeRow_ok_iff : (∃ i, decodeRow (opcOf v) (fieldsOf v) = .ok i) ↔
    (∃ form, formOf (opcOf v) = some form ∧ FieldsClear form.unused v) ∧
      (opcOf v = 1 →
        distinctDests (regOf (fieldsOf v).rd) (regOf (fieldsOf v).rd2) (regOf (fieldsOf v).rd3) = true) := by
  have hrow := decoderRow (opcOf v) (fieldsOf v)
  generalize formOf (opcOf v) = form at hrow
  generalize decodeRow (opcOf v) (fieldsOf v) = r at hrow
  cases hrow with
  | unassigned => simp
  | noFields hopc => simp [noOperands_ok_iff, hopc, OperandForm.unused, fieldsOf]
  | allFields hopc => simp [xgcdOperands_ok_iff, hopc, OperandForm.unused]
  | rdRs1 hopc => simp [twoOperands_ok_iff, hopc, OperandForm.unused, fieldsOf]
  | rdRs1Rs2 hopc => simp [threeOperands_ok_iff, hopc, OperandForm.unused, fieldsOf]

end

/-- Settles O4: the mask test is R87's conditions 2, 3 and 4, and the decoder's rows ask for 2, 4 and 5. -/
theorem legalIsTheMaskTest : Obligations.LegalIsTheMaskTest := by
  intro v
  have hlegal : legal v = true ↔ v.extractLsb' 32 32 = 0#32 ∧ reservedClear v = true ∧
      ∃ i, decodeRow (opcOf v) (fieldsOf v) = .ok i := by
    simp only [legal_iff, decode_ok_iff, exists_and_left]
  rw [hlegal, decodeRow_ok_iff, distinctDests_regOf_iff, tableTest_iff, and_assoc]
  rfl

end Sys2Proof
end

section
/-! PROOFS. What holds of every command (30_encoding.md R90 to R93), the completing cycle (R88, R90), and what XGCD
writes (40_gcd.md R102). -/

namespace Sys2Proof.Machine

/-- Settles O21: `ends_exec` says how each command ends. -/
theorem everyCommandFinishesOrReports : Obligations.EveryCommandFinishesOrReports := by
  intro i s
  obtain ⟨t, ht, hend⟩ := ends_exec i s
  rcases hend.done_or_failed with ⟨g, q, b, hd⟩ | ⟨e, -, hf⟩
  · exact .inl ⟨g, q, b, t, ht, hd⟩
  · exact .inr ⟨e, t, ht, hf⟩

/-! ### Invalid sources -/

section
variable {s : State} {r rs1 rs2 : QReg}

theorem checkQ_of_invalid_source {rule : Ratio → Result} (hr : r ∈ [rs1]) (hv : (readQ s r).valid = false) :
    checkQ (readQ s rs1) s rule = .next (completeError .operandInvalid s) := by
  obtain rfl := List.mem_singleton.mp hr
  exact checkQ_invalid hv

theorem checkQQ_of_invalid_source {rule : Ratio → Ratio → Result} (hr : r ∈ [rs1, rs2])
    (hv : (readQ s r).valid = false) :
    checkQQ (readQ s rs1) (readQ s rs2) s rule = .next (completeError .operandInvalid s) := by
  rcases List.mem_pair.mp hr with rfl | rfl
  · exact checkQQ_invalid (.inl hv)
  · exact checkQQ_invalid (.inr hv)

end

/-- R92, command by command: the sources a command names are those it checks before its rule. -/
theorem exec_of_invalid_source {i : Instr} {s : State} {r : QReg} (hr : r ∈ checkedSources i)
    (hv : (readQ s r).valid = false) : exec i s = .next (completeError .operandInvalid s) := by
  unfold exec
  cases i with
  | qnum | qden | qsgn | qisz | qinv | qneg | qabs | q2f => exact checkQ_of_invalid_source hr hv
  | qadd | qsub | qmul | qdiv | qcmp => exact checkQQ_of_invalid_source hr hv
  | nop | xgcd | gcd | qnew | qvalid | qmov | f2q => exact absurd hr List.not_mem_nil

/-- Settles O23: the check comes before the rule; QVALID and QMOV have none. -/
theorem invalidSourceIsReported : Obligations.InvalidSourceIsReported := by
  constructor
  · rintro i s ⟨r, hr, hv⟩
    exact ⟨_, exec_of_invalid_source hr hv, failed_completeError _ s⟩
  · intro s gd qd qs
    exact ⟨⟨_, finishesG_qvalid s gd qs⟩, _, _, rfl, done_writeQ s qd (readQ s qs)⟩

/-! ### The frame -/

/-- Settles O24: `writesOnly_exec` for G and Q; either way a command ends leaves the rest. -/
theorem commandsChangeOnlyTheirDestinations : Obligations.CommandsChangeOnlyTheirDestinations := by
  intro i s t h
  obtain ⟨hg, hq⟩ := writesOnly_exec i s t h
  refine ⟨hg, hq, ?_⟩
  rcases (exec_ended h).done_or_failed with ⟨_, _, _, hd⟩ | ⟨_, -, hf⟩
  · exact ⟨hd.cmd, hd.reserved, hd.inputs, hd.returned⟩
  · exact ⟨hf.cmd, hf.reserved, hf.inputs, hf.returned⟩

/-! ### The completing cycle -/

section
variable {s : State} {i : Instr}

/-- R90: a Legal CMD value is executed after the port's part of the cycle. -/
theorem step_of_decode (hr : resetAsserted s = false) (he : s.engine = .executing 0)
    (hd : decode (fetchCommand s) = .ok i) : step s = exec i (busyPort s) :=
  (step_of_complete hr he).trans (completeCycle_of_ok hd)

/-- The port's part of the cycle moves the model's own two lists only. -/
theorem busyPort_lists (s : State) :
    ∃ inputs returned, busyPort s = { s with inputs := inputs, returned := returned } := by
  rcases busyPort_cases s with ⟨_, rest, _, _, h⟩ | ⟨_, _, _, _, h⟩ | ⟨_, h⟩
  · exact ⟨rest, _, h⟩
  · exact ⟨_, _, h⟩
  · exact ⟨_, _, h⟩

theorem busyPort_of_no_inputs (h : s.inputs = []) : busyPort s = s := by
  obtain ⟨g, q, status, cmd, engine, inputs, returned⟩ := s
  obtain rfl : inputs = [] := h
  rfl

theorem resetAsserted_placeCommand (v : Word) (s : State) : resetAsserted (placeCommand v s) = false := by
  have hhead := List.head?_dropWhile_not (· == Input.reset) s.inputs
  unfold resetAsserted
  split
  · rename_i hi
    rw [placeCommand_inputs] at hi
    simp [hi] at hhead
  · rfl

theorem withFetchWord_of_lt {w : Nat} (h : w < 2 ^ 32) :
    s.withFetchWord 32 w = placeCommand (BitVec.ofNat 64 w) s := by
  have hmod : w % 2 ^ 32 = w := Nat.mod_eq_of_lt h
  have hfit : w < 2 ^ 64 := h.trans (by norm_num)
  have hword : tableWord 32 w = some (BitVec.ofNat 64 w) := by rw [tableWord, hmod, if_pos hfit]
  simp only [State.withFetchWord, hword]

end

/-- Settles O5: a placed command is in its completing cycle with no reset at the head of the inputs. -/
theorem stepRunsTheDecodedCommand : Obligations.StepRunsTheDecodedCommand := by
  refine ⟨fun s i hr he hd => step_of_decode hr he hd, busyPort_lists, fun s => busyPort_of_no_inputs, ?_⟩
  intro s i w hw hd
  rw [withFetchWord_of_lt hw]
  exact step_of_decode (resetAsserted_placeCommand _ s) rfl hd

/-- Settles O6: the completing cycle of a CMD value that is not Legal is `completeError`. -/
theorem illegalCommandIsReported : Obligations.IllegalCommandIsReported := fun _ hr he hl =>
  ⟨_, (step_of_complete hr he).trans (completeCycle_of_not_legal hl), failed_completeError _ _⟩

/-! ### XGCD -/

theorem gcdInputsOk_iff {m n : Int} : gcdInputsOk m n = true ↔ m ≠ MIN ∧ n ≠ MIN := by simp [gcdInputsOk]

/-- XGCD of accepted inputs with different destinations (R102). -/
theorem exec_xgcd_of_ok {s : State} {rd rs1 rs2 rd2 rd3 : GReg} (hdist : distinctDests rd rd2 rd3 = true)
    (hok : gcdInputsOk (sint64 (readG s rs1)) (sint64 (readG s rs2)) = true) :
    let r := xgcdF (sint64 (readG s rs1)) (sint64 (readG s rs2))
    exec (.xgcd rd rs1 rs2 rd2 rd3) s =
      finish (writeG (writeG (writeG s rd (word64 r.d)) rd2 (word64 r.a)) rd3 (word64 r.b)) := by
  simp [exec, execXgcd, hdist, hok]

/-- Settles O30: both sources are read before the three writes, which `done_completeOk` frames. -/
theorem xgcdWritesTheLoopTriple : Obligations.XgcdWritesTheLoopTriple := by
  intro s rd rs1 rs2 rd2 rd3 h12 h13 h23 hm hn r
  have hexec := exec_xgcd_of_ok (distinctDests_iff.mpr ⟨h12, h13, h23⟩) (gcdInputsOk_iff.mpr ⟨hm, hn⟩)
  exact ⟨_, hexec, done_completeOk rfl rfl (.inl rfl) rfl rfl rfl rfl⟩

end Sys2Proof.Machine
end

section
/-! PROOFS. The extended GCD engine (40_gcd.md): how R100's loop runs, the invariant of its variables and their bound
(R101), and the registers XGCD and GCD write or refuse to write (R102, R103). -/

namespace Sys2Proof.Machine

/-! ### The loop: turns and fuel -/

/-- The second remainder after a turn. -/
theorem gcdTurn_r1 (v : GcdVars) : (gcdTurn v).r1 = v.r0.tmod v.r1 := by
  rw [Int.tmod_def, mul_comm]
  rfl

theorem natAbs_gcdTurn_r1_lt {v : GcdVars} (h : v.r1 ≠ 0) : (gcdTurn v).r1.natAbs < v.r1.natAbs := by
  rw [gcdTurn_r1, Int.natAbs_tmod]
  exact Nat.mod_lt _ (Int.natAbs_pos.mpr h)

theorem gcdLoop_of_r1_eq_zero {v : GcdVars} (h : v.r1 = 0) (k : Nat) : gcdLoop k v = v := by
  cases k with
  | zero => rfl
  | succ k => exact if_pos h

theorem gcdLoop_succ_of_r1_ne_zero {v : GcdVars} (h : v.r1 ≠ 0) (k : Nat) :
    gcdLoop (k + 1) v = gcdLoop k (gcdTurn v) := if_neg h

/-- The loop has ended once the turns are as many as abs(r1) (R100). -/
theorem gcdLoop_r1_eq_zero {k : Nat} {v : GcdVars} (h : v.r1.natAbs ≤ k) : (gcdLoop k v).r1 = 0 := by
  induction k generalizing v with
  | zero => exact Int.natAbs_eq_zero.mp (Nat.le_zero.mp h)
  | succ k ih =>
    by_cases h0 : v.r1 = 0
    · rwa [gcdLoop_of_r1_eq_zero h0]
    · rw [gcdLoop_succ_of_r1_ne_zero h0]
      exact ih (Nat.le_of_lt_succ ((natAbs_gcdTurn_r1_lt h0).trans_le h))

theorem gcdLoop_add (j k : Nat) (v : GcdVars) : gcdLoop (j + k) v = gcdLoop k (gcdLoop j v) := by
  induction j generalizing v with
  | zero => rw [Nat.zero_add, gcdLoop]
  | succ j ih =>
    by_cases h0 : v.r1 = 0
    · simp only [gcdLoop_of_r1_eq_zero h0]
    · rw [Nat.succ_add, gcdLoop_succ_of_r1_ne_zero h0, gcdLoop_succ_of_r1_ne_zero h0, ih]

/-- What every turn of the running loop keeps, the loop keeps. -/
theorem gcdLoop_keeps {P : GcdVars → Prop} (hturn : ∀ v, v.r1 ≠ 0 → P v → P (gcdTurn v)) (k : Nat) {v : GcdVars}
    (h : P v) : P (gcdLoop k v) := by
  induction k generalizing v with
  | zero => exact h
  | succ k ih =>
    by_cases h0 : v.r1 = 0
    · rwa [gcdLoop_of_r1_eq_zero h0]
    · rw [gcdLoop_succ_of_r1_ne_zero h0]
      exact ih (hturn v h0 h)

/-- Settles O31: abs(r1) falls in every turn, and an ended loop stays as it is. -/
theorem gcdLoopEndsWithinItsFuel : Obligations.GcdLoopEndsWithinItsFuel := by
  intro m n k hk
  have hend : (gcdLoop n.natAbs ⟨m, n, 1, 0, 0, 1⟩).r1 = 0 := gcdLoop_r1_eq_zero le_rfl
  obtain ⟨more, rfl⟩ := Nat.exists_eq_add_of_le hk
  exact ⟨hend, by rw [gcdLoop_add, gcdLoop_of_r1_eq_zero hend]⟩

/-! ### One column of cofactors

R100 updates (s0, s1) and (t0, t1) in the same way beside (r0, r1). The bound of R101 rests on two facts about such a
column (x0, x1): the determinant x1·r0 − x0·r1 keeps its magnitude, and its two products never have the same sign, so
neither can be larger than the determinant. -/

/-- Truncated division leaves a remainder between 0 and the dividend. -/
theorem tmod_mem_uIcc_zero (a b : Int) : a.tmod b ∈ Set.uIcc 0 a := by
  have habs : (a.tmod b).natAbs ≤ a.natAbs := by
    rw [Int.natAbs_tmod]
    exact Nat.mod_le _ _
  rw [Set.mem_uIcc]
  rcases le_total 0 a with ha | ha
  · have hrem : 0 ≤ a.tmod b := Int.tmod_nonneg b ha
    omega
  · have hrem : 0 ≤ -a.tmod b := Int.neg_tmod a b ▸ Int.tmod_nonneg b (neg_nonneg.mpr ha)
    omega

theorem mul_nonpos_of_mem_uIcc {c a r : Int} (hr : r ∈ Set.uIcc 0 a) (h : c * a ≤ 0) : c * r ≤ 0 := by
  rcases Set.mem_uIcc.mp hr with ⟨h0, ha⟩ | ⟨ha, h0⟩
  · rcases le_total c 0 with hc | hc
    · exact mul_nonpos_of_nonpos_of_nonneg hc h0
    · exact (mul_le_mul_of_nonneg_left ha hc).trans h
  · rcases le_total 0 c with hc | hc
    · exact mul_nonpos_of_nonneg_of_nonpos hc h0
    · exact (mul_le_mul_of_nonpos_left ha hc).trans h

/-- A column (x0, x1) of cofactors beside the remainders (r0, r1), with determinant c or −c. -/
structure Cofactors (c r0 r1 x0 x1 : Int) : Prop where
  det : |x1 * r0 - x0 * r1| = |c|
  opposite : x1 * r0 * (x0 * r1) ≤ 0

section
variable {c r0 r1 x0 x1 : Int} (h : Cofactors c r0 r1 x0 x1)
include h

/-- One turn of R100 on the column. -/
theorem Cofactors.turn : Cofactors c r1 (r0 - r0.tdiv r1 * r1) x1 (x0 - r0.tdiv r1 * x1) := by
  have hmem : r0 - r0.tdiv r1 * r1 ∈ Set.uIcc 0 r0 := by
    rw [mul_comm, ← Int.tmod_def]
    exact tmod_mem_uIcc_zero r0 r1
  generalize r0.tdiv r1 = q at hmem ⊢
  constructor
  · rw [← h.det, ← abs_neg]
    ring_nf
  · have hold : x1 * (x0 * r1) * (r0 - q * r1) ≤ 0 :=
      mul_nonpos_of_mem_uIcc hmem ((mul_right_comm x1 (x0 * r1) r0).trans_le h.opposite)
    have hnew : -(q * r1) * (r0 - q * r1) ≤ 0 := by
      rcases Set.mem_uIcc.mp hmem with ⟨h0, ha⟩ | ⟨ha, h0⟩
      · exact mul_nonpos_of_nonpos_of_nonneg (by omega) h0
      · exact mul_nonpos_of_nonneg_of_nonpos (by omega) h0
    calc (x0 - q * x1) * r1 * (x1 * (r0 - q * r1))
        = x1 * (x0 * r1) * (r0 - q * r1) + x1 ^ 2 * (-(q * r1) * (r0 - q * r1)) := by ring
      _ ≤ 0 := add_nonpos hold (mul_nonpos_of_nonneg_of_nonpos (sq_nonneg x1) hnew)

/-- The newer cofactor is bounded by the input as long as the remainder beside the older one is not 0. -/
theorem Cofactors.abs_snd_le (hr : r0 ≠ 0) : |x1| ≤ |c| :=
  calc |x1| ≤ |x1| * |r0| := le_mul_of_one_le_right (abs_nonneg x1) (Int.one_le_abs hr)
    _ = |x1 * r0| := (abs_mul x1 r0).symm
    _ ≤ |x1 * r0 - x0 * r1| := sq_le_sq.mp (by nlinarith [h.opposite, sq_nonneg (x0 * r1)])
    _ = |c| := h.det

end

/-! ### The invariant of the loop -/

/-- What holds of the loop variables of XGCD_f(m, n) before and after every turn (R101). -/
structure GcdVars.Inv (m n : Int) (v : GcdVars) : Prop where
  bezout0 : v.s0 * m + v.t0 * n = v.r0
  bezout1 : v.s1 * m + v.t1 * n = v.r1
  gcd_eq : Int.gcd v.r0 v.r1 = Int.gcd m n
  colS : Cofactors n v.r0 v.r1 v.s0 v.s1
  colT : Cofactors m v.r0 v.r1 v.t0 v.t1

theorem GcdVars.inv_init (m n : Int) : GcdVars.Inv m n ⟨m, n, 1, 0, 0, 1⟩ where
  bezout0 := by ring
  bezout1 := by ring
  gcd_eq := rfl
  colS := ⟨by simp, by simp⟩
  colT := ⟨by simp, by simp⟩

theorem GcdVars.Inv.turn {m n : Int} {v : GcdVars} (h : v.Inv m n) : (gcdTurn v).Inv m n where
  bezout0 := h.bezout1
  bezout1 := by
    simp only [gcdTurn, ← h.bezout0, ← h.bezout1]
    ring
  gcd_eq :=
    calc Int.gcd v.r1 (v.r0 - v.r0.tdiv v.r1 * v.r1)
        = Int.gcd v.r0 v.r1 := by rw [Int.gcd_comm, Int.gcd_sub_mul_right_left]
      _ = Int.gcd m n := h.gcd_eq
  colS := h.colS.turn
  colT := h.colT.turn

/-- Every loop variable is at most `B` in magnitude. -/
structure GcdVars.Within (B : Int) (v : GcdVars) : Prop where
  r0 : |v.r0| ≤ B
  r1 : |v.r1| ≤ B
  s0 : |v.s0| ≤ B
  s1 : |v.s1| ≤ B
  t0 : |v.t0| ≤ B
  t1 : |v.t1| ≤ B

section
variable {B m n : Int} (hm : |m| ≤ B) (hn : |n| ≤ B)
include hm hn

theorem GcdVars.Within.turn {v : GcdVars} (h : v.Within B) (hinv : v.Inv m n) (h0 : v.r1 ≠ 0) :
    (gcdTurn v).Within B where
  r0 := h.r1
  r1 := by
    have hle := Set.abs_sub_left_of_mem_uIcc (tmod_mem_uIcc_zero v.r0 v.r1)
    rw [sub_zero, sub_zero, ← gcdTurn_r1] at hle
    exact hle.trans h.r0
  s0 := h.s1
  s1 := (hinv.turn.colS.abs_snd_le h0).trans hn
  t0 := h.t1
  t1 := (hinv.turn.colT.abs_snd_le h0).trans hm

/-- R101: all loop variables stay within any positive bound on the inputs. -/
theorem gcdLoop_within (hB : 1 ≤ B) (k : Nat) : (gcdLoop k ⟨m, n, 1, 0, 0, 1⟩).Within B := by
  have hboth : ∀ v : GcdVars, v.r1 ≠ 0 → v.Inv m n ∧ v.Within B → (gcdTurn v).Inv m n ∧ (gcdTurn v).Within B :=
    fun v h0 ⟨hinv, hin⟩ => ⟨hinv.turn, hin.turn hm hn hinv h0⟩
  have h1 : |(1 : Int)| ≤ B := by rwa [abs_one]
  have h0 : |(0 : Int)| ≤ B := abs_zero.trans_le (zero_le_one.trans hB)
  exact (gcdLoop_keeps hboth k ⟨GcdVars.inv_init m n, hm, hn, h1, h0, h0, h1⟩).2

end

theorem gcdLoop_inv (m n : Int) (k : Nat) : (gcdLoop k ⟨m, n, 1, 0, 0, 1⟩).Inv m n :=
  gcdLoop_keeps (fun _ _ h => h.turn) k (GcdVars.inv_init m n)

/-! ### The triple of R100 -/

/-- The end of `XGCD_f`: the loop's last (s0, t0, r0), negated if r0 is negative. -/
theorem xgcdF_eq (m n : Int) :
    let v := gcdLoop n.natAbs ⟨m, n, 1, 0, 0, 1⟩
    xgcdF m n = ⟨v.s0, v.t0, v.r0⟩ ∧ 0 ≤ v.r0 ∨ xgcdF m n = ⟨-v.s0, -v.t0, -v.r0⟩ ∧ v.r0 < 0 := by
  intro v
  by_cases h : v.r0 < 0
  · exact .inr ⟨if_pos h, h⟩
  · exact .inl ⟨if_neg h, not_lt.mp h⟩

theorem xgcdF_bezout (m n : Int) : (xgcdF m n).a * m + (xgcdF m n).b * n = (xgcdF m n).d := by
  have hbez := (gcdLoop_inv m n n.natAbs).bezout0
  rcases xgcdF_eq m n with ⟨h, -⟩ | ⟨h, -⟩ <;> rw [h]
  · exact hbez
  · linarith

/-- The loop ends with r1 = 0, so abs(r0) is the greatest common divisor. -/
theorem xgcdF_d (m n : Int) : (xgcdF m n).d = Int.gcd m n := by
  have hend := gcdLoop_r1_eq_zero (v := ⟨m, n, 1, 0, 0, 1⟩) (le_refl n.natAbs)
  have hgcd := (gcdLoop_inv m n n.natAbs).gcd_eq
  rw [hend, Int.gcd_zero_right] at hgcd
  rw [← hgcd]
  rcases xgcdF_eq m n with ⟨h, hr⟩ | ⟨h, hr⟩ <;> rw [h]
  · exact Int.eq_natAbs_of_nonneg hr
  · exact (Int.ofNat_natAbs_of_nonpos hr.le).symm

/-- R101's bound on the results. -/
theorem xgcdF_abs_le {B m n : Int} (hm : |m| ≤ B) (hn : |n| ≤ B) (hB : 1 ≤ B) :
    |(xgcdF m n).a| ≤ B ∧ |(xgcdF m n).b| ≤ B ∧ |(xgcdF m n).d| ≤ B := by
  have hin := gcdLoop_within hm hn hB n.natAbs
  rcases xgcdF_eq m n with ⟨h, -⟩ | ⟨h, -⟩ <;> rw [h]
  · exact ⟨hin.s0, hin.t0, hin.r0⟩
  · simp only [abs_neg]
    exact ⟨hin.s0, hin.t0, hin.r0⟩

/-- With n = 0 the loop makes no turn. -/
theorem xgcdF_zero_right (m : Int) : xgcdF m 0 = if m < 0 then ⟨-1, 0, -m⟩ else ⟨1, 0, m⟩ := by
  rw [xgcdF, gcdLoop_of_r1_eq_zero rfl, neg_zero]

theorem one_le_max : 1 ≤ MAX := by decide

theorem abs_le_max_iff {i : Int} : |i| ≤ MAX ↔ MIN < i ∧ i ≤ MAX := by
  rw [abs_le]
  unfold MIN MAX
  omega

/-- Settles O32: the loop's invariant at its end, and its bound at every turn with `B = MAX`. -/
theorem xgcdTripleIsBezoutAndFits : Obligations.XgcdTripleIsBezoutAndFits := by
  intro m n hmlo hmhi hnlo hnhi r
  have hm : |m| ≤ MAX := abs_le_max_iff.mpr ⟨hmlo, hmhi⟩
  have hn : |n| ≤ MAX := abs_le_max_iff.mpr ⟨hnlo, hnhi⟩
  obtain ⟨ha, hb, hd⟩ := xgcdF_abs_le hm hn one_le_max
  refine ⟨xgcdF_bezout m n, xgcdF_d m n, (le_abs_self _).trans hd, ha, hb, fun k => ?_, ?_, ?_⟩
  · obtain ⟨hr0, hr1, hs0, hs1, ht0, ht1⟩ := gcdLoop_within hm hn one_le_max k
    exact ⟨hr0, hr1, hs0, hs1, ht0, ht1⟩
  · rintro rfl rfl
    rfl
  · rintro h0 rfl
    refine (xgcdF_zero_right m).trans ?_
    rcases lt_or_gt_of_ne h0 with hneg | hpos
    · rw [if_pos hneg, Int.sign_eq_neg_one_of_neg hneg, Int.ofNat_natAbs_of_nonpos hneg.le]
    · rw [if_neg hpos.not_gt, Int.sign_eq_one_of_pos hpos, Int.natAbs_of_nonneg hpos.le]

/-! ### The commands -/

/-- R13 inside [MIN + 1, MAX]: the word of an integer reads back as that integer. -/
theorem sint64_word64 {i : Int} (h : |i| ≤ MAX) : sint64 (word64 i) = i := by
  obtain ⟨hlo, hhi⟩ := abs_le_max_iff.mp h
  exact BitVec.toInt_ofInt_eq_self (by decide) hlo.le (Int.lt_of_le_sub_one hhi)

/-- An accepted source word (R102, R103). -/
theorem abs_sint64_le {w : Word} (h : sint64 w ≠ MIN) : |sint64 w| ≤ MAX := by
  obtain ⟨hlo, hhi⟩ := sint64_range w
  exact abs_le_max_iff.mpr ⟨lt_of_le_of_ne hlo h.symm, hhi⟩

@[simp] theorem readG_completeOk (s : State) (i : GReg) : readG (completeOk s) i = readG s i := rfl

section
variable {s : State} {rs1 rs2 : GReg}

/-- GCD of accepted inputs (R103). -/
theorem exec_gcd_of_ok (rd : GReg) (hok : gcdInputsOk (sint64 (readG s rs1)) (sint64 (readG s rs2)) = true) :
    exec (.gcd rd rs1 rs2) s = finishG rd (word64 (xgcdF (sint64 (readG s rs1)) (sint64 (readG s rs2))).d) s := by
  simp [exec, execGcd, hok]

/-- GCD of a refused input (R103). -/
theorem exec_gcd_of_not_ok (rd : GReg) (hok : gcdInputsOk (sint64 (readG s rs1)) (sint64 (readG s rs2)) = false) :
    exec (.gcd rd rs1 rs2) s = raise .operandInvalid s := by
  simp [exec, execGcd, hok]

/-- XGCD of a refused input with different destinations (R102). -/
theorem exec_xgcd_of_not_ok {rd rd2 rd3 : GReg} (hdist : distinctDests rd rd2 rd3 = true)
    (hok : gcdInputsOk (sint64 (readG s rs1)) (sint64 (readG s rs2)) = false) :
    exec (.xgcd rd rs1 rs2 rd2 rd3) s = raise .operandInvalid s := by
  simp [exec, execXgcd, hdist, hok]

theorem gcdInputsOk_of_min_word (h : readG s rs1 = 0x8000000000000000#64 ∨ readG s rs2 = 0x8000000000000000#64) :
    gcdInputsOk (sint64 (readG s rs1)) (sint64 (readG s rs2)) = false := by
  have hmin : sint64 0x8000000000000000#64 = MIN := by decide
  rw [← Bool.not_eq_true, gcdInputsOk_iff]
  rintro ⟨h1, h2⟩
  rcases h with h | h
  · exact h1 (h ▸ hmin)
  · exact h2 (h ▸ hmin)

end

/-- Settles O33: the three destinations differ, so each keeps its word, and no word wraps by `xgcdF_abs_le`. -/
theorem xgcdRegistersSatisfyBezout : Obligations.XgcdRegistersSatisfyBezout := by
  intro s rd rs1 rs2 rd2 rd3 h12 h13 h23 hm hn
  obtain ⟨ha, hb, hd⟩ := xgcdF_abs_le (abs_sint64_le hm) (abs_sint64_le hn) one_le_max
  have hexec := exec_xgcd_of_ok (distinctDests_iff.mpr ⟨h12, h13, h23⟩) (gcdInputsOk_iff.mpr ⟨hm, hn⟩)
  refine ⟨_, hexec, by simp, ?_, ?_⟩ <;>
    simp only [readG_completeOk, readG_writeG_same, readG_writeG_ne _ _ _ _ h12.symm,
      readG_writeG_ne _ _ _ _ h13.symm, readG_writeG_ne _ _ _ _ h23.symm,
      sint64_word64 ha, sint64_word64 hb, sint64_word64 hd]
  · exact xgcdF_bezout _ _
  · exact xgcdF_d _ _

/-- Settles O34: GCD writes the third result of the loop. -/
theorem gcdWritesTheGcd : Obligations.GcdWritesTheGcd := by
  intro s rd rs1 rs2 hm hn
  rw [← xgcdF_d]
  exact finishesG_of_exec (exec_gcd_of_ok rd (gcdInputsOk_iff.mpr ⟨hm, hn⟩))

/-- Settles O35: the input test comes before the loop in both commands. -/
theorem gcdCommandsRefuseMin : Obligations.GcdCommandsRefuseMin := by
  intro s rd rs1 rs2 rd2 rd3 hmin
  have hok := gcdInputsOk_of_min_word hmin
  refine ⟨⟨_, exec_gcd_of_not_ok rd hok, failed_completeError _ s⟩, fun h12 h13 h23 => ?_⟩
  exact ⟨_, exec_xgcd_of_not_ok (distinctDests_iff.mpr ⟨h12, h13, h23⟩) hok, failed_completeError _ s⟩

end Sys2Proof.Machine
end

section
/-! PROOFS. The constructor and the accessors (41_construct.md): reduction as the quotient in lowest terms (R120), what
QNEW stores or reports (R121), and the words QNUM, QDEN, QSGN, QISZ and QMOV write (R123 to R127). -/

namespace Sys2Proof.Machine

/-! ### How a rule with a pair or an error ends -/

section
variable {i : Instr} {s : State} {rd : QReg} {r : Except ErrKind Ratio}

theorem finishesQ_of_ok {p : Ratio} (h : exec i s = finishRatio rd r s) (hr : r = .ok p) :
    FinishesQ i s rd (storeRatio p) := by
  subst hr
  exact ⟨_, h, done_writeQ s rd _⟩

theorem reports_of_error {e : ErrKind} (h : exec i s = finishRatio rd r s) (hr : r = .error e) : Reports i s e := by
  subst hr
  exact ⟨_, h, failed_completeError e s⟩

end

/-! ### Reduction -/

section
variable {n d : Int} (hd : 0 < d)
include hd

/-- Dividing both parts by their gcd gives the numerator and the denominator of the quotient. -/
theorem quotient_num_and_den : ((n : ℚ) / d).num = n / Int.gcd n d ∧ (((n : ℚ) / d).den : Int) = d / Int.gcd n d := by
  have hg : 0 < Int.gcd n d := Int.gcd_pos_of_ne_zero_right n hd.ne'
  have hg0 : ((Int.gcd n d : Int) : ℚ) ≠ 0 := by exact_mod_cast hg.ne'
  have hquot : (n : ℚ) / d = (n / Int.gcd n d : Int) / (d / Int.gcd n d : Int) := by
    rw [Rat.intCast_div _ _ (Int.gcd_dvd_left ..), Rat.intCast_div _ _ (Int.gcd_dvd_right ..),
      div_div_div_cancel_right₀ hg0]
  have hpos : 0 < d / (Int.gcd n d : Int) :=
    Int.ediv_pos_of_pos_of_dvd hd (Int.natCast_nonneg _) (Int.gcd_dvd_right ..)
  have hcop : Int.gcd (n / Int.gcd n d) (d / Int.gcd n d) = 1 := Int.gcd_ediv_gcd_ediv_gcd hg
  rw [hquot]
  exact ⟨Rat.num_div_eq_of_coprime hpos hcop, Rat.den_div_eq_of_coprime hpos hcop⟩

/-- R120 with a positive denominator: the pair is the quotient in lowest terms. The zero numerator needs no case of its
own. -/
theorem reduce_eq_quotient : reduce n d = if ((n : ℚ) / d).num = MIN then .error .numeratorOverflow
    else .ok ⟨((n : ℚ) / d).num, ((n : ℚ) / d).den⟩ := by
  by_cases hn : n = 0
  · subst hn
    rw [reduce_zero hd, Int.cast_zero, zero_div]
    rfl
  · obtain ⟨hnum, hden⟩ := quotient_num_and_den (n := n) hd
    rw [reduce_of_pos hd hn, hnum, hden]

omit hd in
/-- MIN is a power of two up to its sign. -/
theorem gcd_min_eq_one_iff : Int.gcd MIN d = 1 ↔ d % 2 = 1 := by
  rw [MIN, Int.neg_gcd, ← Int.isCoprime_iff_gcd_eq_one, IsCoprime.pow_left_iff (by norm_num),
    Int.isCoprime_two_left, Int.odd_iff]

/-- R121: a numerator word reduces to MIN only from MIN, and only with nothing to cancel. -/
theorem quotient_num_eq_min_iff (hlo : MIN ≤ n) : ((n : ℚ) / d).num = MIN ↔ n = MIN ∧ d % 2 = 1 := by
  rw [(quotient_num_and_den hd).1]
  constructor
  · intro h
    have hg : 0 < Int.gcd n d := Int.gcd_pos_of_ne_zero_right n hd.ne'
    have hmul : MIN * Int.gcd n d = n := h ▸ Int.ediv_mul_cancel (Int.gcd_dvd_left ..)
    have hone : Int.gcd n d = 1 := by
      unfold MIN at hlo hmul
      omega
    have hn : n = MIN := by rw [← hmul, hone, Nat.cast_one, mul_one]
    exact ⟨hn, gcd_min_eq_one_iff.mp (hn ▸ hone)⟩
  · rintro ⟨rfl, hodd⟩
    rw [gcd_min_eq_one_iff.mpr hodd, Nat.cast_one, Int.ediv_one]

end

/-- Settles O38: the three cases of R120 for the quotient in lowest terms. -/
theorem qnewStoresTheReducedQuotient : Obligations.QnewStoresTheReducedQuotient := by
  intro s rd rs1 rs2 n d
  have hexec : exec (.qnew rd rs1 rs2) s = finishRatio rd (reduce n d) s := rfl
  have hmin (hd : 0 < d) : ((n : ℚ) / d).num = MIN ↔ n = MIN ∧ d % 2 = 1 :=
    quotient_num_eq_min_iff hd (sint64_range (readG s rs1)).1
  refine ⟨fun hd => ?_, fun hd hn hodd => ?_, fun hd h => ?_⟩
  · exact reports_of_error hexec (reduce_of_nonpos hd)
  · exact reports_of_error hexec ((reduce_eq_quotient hd).trans (if_pos ((hmin hd).mpr ⟨hn, hodd⟩)))
  · exact finishesQ_of_ok hexec ((reduce_eq_quotient hd).trans (if_neg (mt (hmin hd).mp h)))

/-! ### The accessors -/

theorem finishesG_of_checkQ {i : Instr} {s : State} {rd : GReg} {x : RatReg} {f : Ratio → Word}
    (h : exec i s = checkQ x s fun r => finishG rd (f r) s) (hx : x.valid = true) :
    FinishesG i s rd (f x.toRatio) :=
  finishesG_of_exec (h.trans (checkQ_valid hx))

/-- The word of the denominator is the biased word plus 1, whatever the pattern (10_state.md R34). -/
theorem word64_den (x : RatReg) : word64 x.den = x.db + 1 := by
  rw [RatReg.den, word64, BitVec.ofInt_add, BitVec.ofInt_toInt]
  rfl

/-- Settles O40: the denominator of a valid register is in range, so its word does not wrap. -/
theorem qnumAndQdenWriteTheirParts : Obligations.QnumAndQdenWriteTheirParts := by
  intro s rd rs1 hx
  obtain ⟨hpos, hmax, -⟩ := (readQ s rs1).valid_iff_gcd.mp hx
  have hden : sint64 (word64 (readQ s rs1).den) = (readQ s rs1).den :=
    sint64_word64 ((abs_of_pos hpos).trans_le hmax)
  rw [← word64_den, hden]
  exact ⟨finishesG_of_checkQ (f := fun _ => (readQ s rs1).n) rfl hx,
    finishesG_of_checkQ (f := fun r => word64 r.den) rfl hx, rfl, hpos⟩

section
variable {x : RatReg} (hx : x.valid = true)
include hx

/-- The denominator is positive, so the value has the sign of the numerator. -/
theorem value_pos_iff : 0 < x.value ↔ 0 < x.num := by
  have hd : (0 : ℚ) < x.den := by exact_mod_cast RatReg.den_pos_of_valid hx
  rw [RatReg.value, div_pos_iff_of_pos_right hd, Int.cast_pos]

theorem value_eq_zero_iff : x.value = 0 ↔ x.num = 0 := by
  have hd : (x.den : ℚ) ≠ 0 := by exact_mod_cast (RatReg.den_pos_of_valid hx).ne'
  rw [RatReg.value, div_eq_zero_iff, or_iff_left hd, Int.cast_eq_zero]

theorem value_neg_iff : x.value < 0 ↔ x.num < 0 := by
  rw [← not_le, le_iff_lt_or_eq, eq_comm, value_pos_iff hx, value_eq_zero_iff hx]
  omega

end

/-- The word of a sign (R125). -/
theorem word64_sign (i : Int) :
    word64 i.sign = if 0 < i then 1#64 else if i < 0 then 0xFFFFFFFFFFFFFFFF#64 else 0#64 := by
  rcases lt_trichotomy i 0 with h | rfl | h
  · rw [Int.sign_eq_neg_one_of_neg h, if_neg h.not_gt, if_pos h]
    rfl
  · rfl
  · rw [Int.sign_eq_one_of_pos h, if_pos h]
    rfl

/-- Settles O41: sign and zero test of the value are those of the numerator. -/
theorem qsgnAndQiszReadTheValue : Obligations.QsgnAndQiszReadTheValue := by
  intro s rd rs1 hx z
  have hsgn := finishesG_of_checkQ (i := .qsgn rd rs1) (f := fun r => word64 r.num.sign) rfl hx
  have hisz := finishesG_of_checkQ (i := .qisz rd rs1) (f := fun r => boolWord (r.num == 0)) rfl hx
  simp only [z, value_pos_iff hx, value_neg_iff hx, value_eq_zero_iff hx]
  exact ⟨word64_sign _ ▸ hsgn, by simpa [boolWord, RatReg.toRatio] using hisz⟩

/-- Settles O42: QMOV has no operand check. -/
theorem qmovCopiesTheBits : Obligations.QmovCopiesTheBits :=
  fun s rd rs1 => ⟨_, rfl, done_writeQ s rd (readQ s rs1)⟩

end Sys2Proof.Machine
end

section
/-! PROOFS. Exact results and addition (42_arith.md R151 to R157). The rules of the arithmetic unit end in range tests
of two magnitudes, the numerator first, and then store the exact result in lowest terms; they differ in the magnitudes
they test (R157, R161). -/

namespace Sys2Proof.Machine

/-! ### Exact results -/

/-- The rational number a pair denotes (10_state.md R36). -/
def Ratio.value (r : Ratio) : ℚ := (r.num : ℚ) / r.den

theorem value_toRatio (x : RatReg) : x.toRatio.value = x.value := rfl

/-- The pair of a rational number in lowest terms. -/
def lowestTerms (z : ℚ) : Ratio := ⟨z.num, z.den⟩

theorem storeRatio_lowestTerms (z : ℚ) : storeRatio (lowestTerms z) = ratPattern z := rfl

/-- How the rules of R153 and R160 end: the range tests of the magnitudes `q` and `l`, the numerator's first, and then
the exact result `z`. -/
def rangeTested (q l : Nat) (z : ℚ) : Except ErrKind Ratio :=
  if MAX < (q : Int) then .error .numeratorOverflow
  else if MAX < (l : Int) then .error .denominatorOverflow
  else .ok (lowestTerms z)

section
variable {q l : Nat} {z : ℚ}

theorem rangeTested_of_lt (hq : MAX < (q : Int)) : rangeTested q l z = .error .numeratorOverflow := if_pos hq

theorem rangeTested_of_le_of_lt (hq : (q : Int) ≤ MAX) (hl : MAX < (l : Int)) :
    rangeTested q l z = .error .denominatorOverflow := (if_neg hq.not_gt).trans (if_pos hl)

theorem rangeTested_of_le (hq : (q : Int) ≤ MAX) (hl : (l : Int) ≤ MAX) : rangeTested q l z = .ok (lowestTerms z) :=
  (if_neg hq.not_gt).trans (if_neg hl.not_gt)

/-- What a command with such a rule does, in three cases that exclude each other. -/
theorem ends_of_rangeTested {i : Instr} {s : State} {rd : QReg} {r : Except ErrKind Ratio}
    (h : exec i s = finishRatio rd r s) (hr : r = rangeTested q l z) :
    (MAX < (q : Int) → Reports i s .numeratorOverflow) ∧
      ((q : Int) ≤ MAX → MAX < (l : Int) → Reports i s .denominatorOverflow) ∧
      ((q : Int) ≤ MAX → (l : Int) ≤ MAX → FinishesQ i s rd (ratPattern z)) := by
  subst hr
  refine ⟨fun hq => ?_, fun hq hl => ?_, fun hq hl => ?_⟩
  · exact reports_of_error h (rangeTested_of_lt hq)
  · exact reports_of_error h (rangeTested_of_le_of_lt hq hl)
  · exact finishesQ_of_ok h (rangeTested_of_le hq hl)

end

section
variable {x : Ratio} (hx : x.Storable)
include hx

/-- A storable pair is in lowest terms. -/
theorem lowestTerms_value : lowestTerms x.value = x := by
  have hnum : x.value.num = x.num := Rat.num_div_eq_of_coprime hx.den_pos hx.coprime
  have hden : (x.value.den : Int) = x.den := Rat.den_div_eq_of_coprime hx.den_pos hx.coprime
  rw [lowestTerms, hnum, hden]

theorem storeRatio_eq_ratPattern : storeRatio x = ratPattern x.value := by
  rw [← storeRatio_lowestTerms, lowestTerms_value hx]

theorem Ratio.Storable.natAbs_den_le : (x.den.natAbs : Int) ≤ MAX := by
  have hpos := hx.den_pos
  have hmax := hx.den_le
  omega

theorem Ratio.Storable.natAbs_den_pos : 0 < x.den.natAbs := by
  have hpos := hx.den_pos
  omega

theorem Ratio.Storable.natAbs_den_cast : (x.den.natAbs : ℚ) = x.den := by
  have hpos : 0 < x.den := hx.den_pos
  rw [Nat.cast_natAbs, abs_of_pos hpos]

/-- A value as sign and magnitudes (R160). -/
theorem value_eq_sign_mul : x.value = x.num.sign * ((x.num.natAbs : ℚ) / x.den.natAbs) := by
  have hnum : (x.num.sign : ℚ) * x.num.natAbs = x.num := by
    rw [← Int.cast_natCast, ← Int.cast_mul, Int.sign_mul_natAbs]
  rw [Ratio.value, ← mul_div_assoc, hnum, hx.natAbs_den_cast]

/-- Canonical zero is the only storable pair with numerator 0 (10_state.md R35). -/
theorem Ratio.Storable.den_eq_one (h0 : x.num = 0) : x.den = 1 := by
  have hpos := hx.den_pos
  have hgcd := hx.coprime
  rw [h0, Int.gcd_zero_left] at hgcd
  omega

end

theorem value_negRatio (x : Ratio) : (negRatio x).value = -x.value := by
  rw [Ratio.value, Ratio.value, negRatio, Int.cast_neg, neg_div]

theorem value_natAbs {x : Ratio} (hx : x.Storable) : Ratio.value ⟨x.num.natAbs, x.den⟩ = |x.value| := by
  have hd : (0 : ℚ) < x.den := by exact_mod_cast Int.lt_of_add_one_le hx.den_pos
  rw [Ratio.value, Ratio.value, abs_div, abs_of_pos hd, Int.cast_natCast, Nat.cast_natAbs, Int.cast_abs]

theorem natAbs_unit_mul {s : Int} (hs : s.natAbs = 1) (a : Nat) : (s * a).natAbs = a := by
  rw [Int.natAbs_mul, hs, one_mul, Int.natAbs_natCast]

/-- Reduction (41_construct.md R120) of a numerator above MIN in lowest terms. -/
theorem reduce_of_natAbs_le {n d : Int} (hd : 0 < d) (hn : (n.natAbs : Int) ≤ MAX) :
    reduce n d = .ok (lowestTerms ((n : ℚ) / d)) := by
  rw [reduce_eq_quotient hd, if_neg]
  · rfl
  · rw [quotient_num_eq_min_iff hd]
    all_goals simp only [MIN, MAX] at *; omega

/-! ### The wide path (R153) -/

/-- The six cases of R153 add the cross products with their signs. -/
theorem combineCross_value {m1 m2 : Int} (h1 : m1 ≠ 0) (h2 : m2 ≠ 0) (p1 p2 : Nat) :
    (combineCross m1 m2 p1 p2).sign * (combineCross m1 m2 p1 p2).mag = m1.sign * p1 + m2.sign * p2 := by
  have hsign {m : Int} (h : m ≠ 0) : m < 0 ∧ m.sign = -1 ∨ 0 < m ∧ m.sign = 1 :=
    (lt_or_gt_of_ne h).imp (fun h => ⟨h, Int.sign_eq_neg_one_of_neg h⟩) (fun h => ⟨h, Int.sign_eq_one_of_pos h⟩)
  unfold combineCross
  rcases hsign h1 with ⟨h1, hs1⟩ | ⟨h1, hs1⟩ <;> rcases hsign h2 with ⟨h2, hs2⟩ | ⟨h2, hs2⟩ <;> rw [hs1, hs2]
  all_goals
    repeat' split
    all_goals
      dsimp only
      omega

/-- The end of R153 on a common denominator `dd` that `g` divides, as well as the magnitude: the test for 2^127 never
fires and the final reduction cannot raise. -/
theorem addWideScaled_eq {c : SignMag} {dd g : Nat} (hs : c.sign.natAbs = 1) (hmag : c.mag < 2 ^ 127) (hdd : 0 < dd)
    (hgm : g ∣ c.mag) (hgd : g ∣ dd) :
    addWideScaled c dd g = rangeTested (c.mag / g) (dd / g) ((c.sign * c.mag : Int) / dd) := by
  unfold addWideScaled rangeTested
  rw [if_neg (by omega)]
  split
  · rfl
  · split
    · rfl
    · have hg : (g : ℚ) ≠ 0 := by exact_mod_cast (Nat.pos_of_dvd_of_pos hgd hdd).ne'
      have hpos : (0 : Int) < (dd / g : Nat) := by
        exact_mod_cast Nat.div_pos (Nat.le_of_dvd hdd hgd) (Nat.pos_of_dvd_of_pos hgd hdd)
      rw [reduce_of_natAbs_le hpos (by rw [natAbs_unit_mul hs]; omega)]
      congr 2
      rw [Int.cast_mul, Int.cast_mul, Int.cast_natCast, Int.cast_natCast, Int.cast_natCast, Nat.cast_div hgm hg,
        Nat.cast_div hgd hg, ← mul_div_assoc, div_div_div_cancel_right₀ hg]

/-- The magnitude whose range R153 tests for the numerator: the numerator of the sum over the least common multiple of
the denominators. -/
def sumMag (x y : Ratio) : Nat := (x.num * y.den + y.num * x.den).natAbs / Int.gcd x.den y.den

/-- The magnitude whose range R153 tests for the denominator: the least common multiple of the denominators. -/
def sumDen (x y : Ratio) : Nat := (x.den * y.den).natAbs / Int.gcd x.den y.den

theorem sumMag_comm (x y : Ratio) : sumMag x y = sumMag y x := by
  rw [sumMag, sumMag, add_comm, Int.gcd_comm]

theorem sumDen_comm (x y : Ratio) : sumDen x y = sumDen y x := by
  rw [sumDen, sumDen, mul_comm, Int.gcd_comm]

section
variable {x y : Ratio} (hx : x.Storable) (hy : y.Storable)
include hx hy

/-- The cross products of R153 fit 128 bits: the sum of two products of magnitudes below 2^63. -/
theorem natAbs_crossSum_lt : (x.num * y.den + y.num * x.den).natAbs < 2 ^ 127 := by
  have hlt {m d : Int} (hm : (m.natAbs : Int) ≤ MAX) (hd : (d.natAbs : Int) ≤ MAX) : (m * d).natAbs < 2 ^ 126 := by
    unfold MAX at hm hd
    calc (m * d).natAbs = m.natAbs * d.natAbs := Int.natAbs_mul m d
      _ < 2 ^ 63 * 2 ^ 63 := Nat.mul_lt_mul'' (by omega) (by omega)
      _ = 2 ^ 126 := by norm_num
  have h1 := hlt hx.num_le hy.natAbs_den_le
  have h2 := hlt hy.num_le hx.natAbs_den_le
  omega

omit hx hy in
/-- gcd(n1, n2) divides both cross products, so the division of R153 is exact. -/
theorem gcd_den_dvd_crossSum : Int.gcd x.den y.den ∣ (x.num * y.den + y.num * x.den).natAbs := by
  rw [← Int.natCast_dvd]
  exact dvd_add (Dvd.dvd.mul_left (Int.gcd_dvd_right ..) _) (Dvd.dvd.mul_left (Int.gcd_dvd_left ..) _)

theorem value_add_value : x.value + y.value = (x.num * y.den + y.num * x.den : Int) / (x.den * y.den).natAbs := by
  have hx0 : (x.den : ℚ) ≠ 0 := by exact_mod_cast (Int.lt_of_add_one_le hx.den_pos).ne'
  have hy0 : (y.den : ℚ) ≠ 0 := by exact_mod_cast (Int.lt_of_add_one_le hy.den_pos).ne'
  rw [Ratio.value, Ratio.value, div_add_div _ _ hx0 hy0, Int.natAbs_mul, Nat.cast_mul, hx.natAbs_den_cast,
    hy.natAbs_den_cast]
  push_cast
  ring

/-- A zero operand passes both tests: the magnitudes are the other operand's own. -/
theorem rangeTested_of_num_eq_zero (h0 : x.num = 0) :
    rangeTested (sumMag x y) (sumDen x y) (x.value + y.value) = .ok y := by
  have hden := hx.den_eq_one h0
  have hzero : x.value = 0 := by simp [Ratio.value, h0]
  have hmag : sumMag x y = y.num.natAbs := by simp [sumMag, h0, hden]
  have hlcm : sumDen x y = y.den.natAbs := by simp [sumDen, hden]
  rw [hmag, hlcm, rangeTested_of_le hy.num_le hy.natAbs_den_le, hzero, zero_add, lowestTerms_value hy]

/-- The wide path (R153): what it tests and what it stores (R157). -/
theorem addWide_eq : addWide x y = rangeTested (sumMag x y) (sumDen x y) (x.value + y.value) := by
  unfold addWide
  split
  · rw [rangeTested_of_num_eq_zero hx hy ‹_›]
  · split
    · rw [sumMag_comm, sumDen_comm, add_comm, rangeTested_of_num_eq_zero hy hx ‹_›]
    · rename_i hx0 hy0
      have hcross {m d : Int} (hd : 1 ≤ d) : m.sign * (m.natAbs * d.natAbs : Nat) = m * d := by
        rw [Nat.cast_mul, ← mul_assoc, Int.sign_mul_natAbs, Int.natAbs_of_nonneg (by omega)]
      have hsum := combineCross_value hx0 hy0 (x.num.natAbs * y.den.natAbs) (y.num.natAbs * x.den.natAbs)
      have hsign := combineCross_sign x.num y.num (x.num.natAbs * y.den.natAbs) (y.num.natAbs * x.den.natAbs)
      rw [hcross hy.den_pos, hcross hx.den_pos] at hsum
      generalize combineCross x.num y.num _ _ = c at hsum hsign ⊢
      have hmag : c.mag = (x.num * y.den + y.num * x.den).natAbs := by
        rw [← hsum, natAbs_unit_mul hsign]
      rw [← Int.natAbs_mul, addWideScaled_eq hsign, hsum, hmag, ← value_add_value hx hy]
      · rfl
      · exact hmag ▸ natAbs_crossSum_lt hx hy
      · rw [Int.natAbs_mul]
        exact Nat.mul_pos hx.natAbs_den_pos hy.natAbs_den_pos
      · exact hmag ▸ gcd_den_dvd_crossSum
      · rw [Int.natAbs_mul]
        exact Dvd.dvd.mul_right (Nat.gcd_dvd_left ..) _

end

/-! ### The narrow path (R151, R152, R156) -/

theorem narrowAdd_iff {x y : Ratio} :
    narrowAdd x y = true ↔ x.num.natAbs < NB ∧ y.num.natAbs < NB ∧ x.den < NB ∧ y.den < NB := by
  simp only [narrowAdd, Bool.and_eq_true, decide_eq_true_eq, and_assoc]

/-- The narrow path is taken only with operands that are storable when valid. -/
theorem storable_of_natAbs_lt {x : Ratio} (hx : x.valid = true) (h : x.num.natAbs < NB) : x.Storable := by
  obtain ⟨hpos, hmax, -, hzero, hgcd⟩ := (ratio_valid_iff x).mp hx
  refine ⟨hpos, hmax, ?_, ?_⟩
  · unfold NB at h
    unfold MAX
    omega
  · by_cases h0 : x.num = 0
    · rw [hzero h0, Int.gcd_one]
    · exact hgcd h0

section
variable {x y : Ratio} (hx : x.Storable) (hy : y.Storable)
include hx hy

/-- The products of the narrow path fit a register word. -/
theorem natAbs_narrow_le (h : narrowAdd x y = true) :
    ((x.num * y.den + y.num * x.den).natAbs : Int) ≤ MAX ∧ ((x.den * y.den).natAbs : Int) ≤ MAX := by
  obtain ⟨hxn, hyn, hxd, hyd⟩ := narrowAdd_iff.mp h
  have hx0 := hx.den_pos
  have hy0 := hy.den_pos
  have h1 := natAbs_mul_lt_of_narrow hxn (b := y.den) (by omega)
  have h2 := natAbs_mul_lt_of_narrow hyn (b := x.den) (by omega)
  have h3 := natAbs_mul_lt_of_narrow (a := x.den) (b := y.den) (by omega) (by omega)
  unfold MAX
  omega

theorem addNarrow_eq (h : narrowAdd x y = true) : addNarrow x y = .ok (lowestTerms (x.value + y.value)) := by
  have hpos : 0 < x.den * y.den := mul_pos (Int.lt_of_add_one_le hx.den_pos) (Int.lt_of_add_one_le hy.den_pos)
  obtain ⟨hnum, -⟩ := natAbs_narrow_le hx hy h
  rw [addNarrow, reduce_of_natAbs_le hpos hnum, value_add_value hx hy, Nat.cast_natAbs, abs_of_pos hpos]

/-- On the narrow path the tests of the wide path pass: the tested magnitudes are quotients of its products. -/
theorem addWide_of_narrowAdd (h : narrowAdd x y = true) : addWide x y = .ok (lowestTerms (x.value + y.value)) := by
  obtain ⟨hnum, hden⟩ := natAbs_narrow_le hx hy h
  have hmag : sumMag x y ≤ _ := Nat.div_le_self ..
  have hlcm : sumDen x y ≤ _ := Nat.div_le_self ..
  rw [addWide_eq hx hy]
  exact rangeTested_of_le (by omega) (by omega)

end

/-- The path choice of R154 is not observable, where the narrow path is taken with storable operands only. -/
theorem addRatio_eq_addWide {x y : Ratio} (h : narrowAdd x y = true → x.Storable ∧ y.Storable) :
    addRatio x y = addWide x y := by
  unfold addRatio
  split
  · obtain ⟨hx, hy⟩ := h ‹_›
    rw [addNarrow_eq hx hy ‹_›, addWide_of_narrowAdd hx hy ‹_›]
  · rfl

theorem addRatio_eq {x y : Ratio} (hx : x.Storable) (hy : y.Storable) :
    addRatio x y = rangeTested (sumMag x y) (sumDen x y) (x.value + y.value) :=
  (addRatio_eq_addWide fun _ => ⟨hx, hy⟩).trans (addWide_eq hx hy)

/-- Settles O45: both paths give the sum in lowest terms, for the negated second operand too. -/
theorem additionPathIsNotObservable : Obligations.AdditionPathIsNotObservable := by
  intro x y hx hy
  have hstorable (h : narrowAdd x y = true) : x.Storable ∧ y.Storable := by
    obtain ⟨hxn, hyn, -, -⟩ := narrowAdd_iff.mp h
    exact ⟨storable_of_natAbs_lt hx hxn, storable_of_natAbs_lt hy hyn⟩
  refine ⟨fun h => ?_, addRatio_eq_addWide hstorable, addRatio_eq_addWide fun h => ?_⟩
  · obtain ⟨hx', hy'⟩ := hstorable h
    exact ⟨_, addNarrow_eq hx' hy' h, addWide_of_narrowAdd hx' hy' h⟩
  · obtain ⟨hxn, hyn, -, -⟩ := narrowAdd_iff.mp h
    rw [negRatio, Int.natAbs_neg] at hyn
    exact ⟨storable_of_natAbs_lt hx hxn, storable_negRatio (storable_of_natAbs_lt hy hyn)⟩

end Sys2Proof.Machine
end

section
/-! PROOFS. Multiplication, division and inverse (42_arith.md R160 to R165), and what the commands of the arithmetic
unit store or report. -/

namespace Sys2Proof.Machine

/-! ### Multiplication and division -/

/-- Cross-cancellation leaves coprime products (R161). -/
theorem coprime_crossCancelled {m1 n1 m2 n2 : Nat} (h1 : m1.Coprime n1) (h2 : m2.Coprime n2) (hn1 : 0 < n1)
    (hn2 : 0 < n2) :
    (m1 / m1.gcd n2 * (m2 / m2.gcd n1)).Coprime (n1 / m2.gcd n1 * (n2 / m1.gcd n2)) := by
  refine Nat.Coprime.mul_left (Nat.Coprime.mul_right ?_ ?_) (Nat.Coprime.mul_right ?_ ?_)
  · exact h1.of_dvd (Nat.div_dvd_of_dvd (Nat.gcd_dvd_left ..)) (Nat.div_dvd_of_dvd (Nat.gcd_dvd_right ..))
  · exact Nat.coprime_div_gcd_div_gcd (Nat.gcd_pos_of_pos_right _ hn2)
  · exact Nat.coprime_div_gcd_div_gcd (Nat.gcd_pos_of_pos_right _ hn1)
  · exact h2.of_dvd (Nat.div_dvd_of_dvd (Nat.gcd_dvd_left ..)) (Nat.div_dvd_of_dvd (Nat.gcd_dvd_right ..))

/-- Cross-cancellation leaves the product as it is. -/
theorem crossCancelled_quotient (m1 m2 : Nat) {n1 n2 : Nat} (hn1 : 0 < n1) (hn2 : 0 < n2) :
    ((m1 / m1.gcd n2 * (m2 / m2.gcd n1) : Nat) : ℚ) / (n1 / m2.gcd n1 * (n2 / m1.gcd n2) : Nat) =
      (m1 : ℚ) / n1 * (m2 / n2) := by
  have hg1 : (m1.gcd n2 : ℚ) ≠ 0 := by exact_mod_cast (Nat.gcd_pos_of_pos_right m1 hn2).ne'
  have hg2 : (m2.gcd n1 : ℚ) ≠ 0 := by exact_mod_cast (Nat.gcd_pos_of_pos_right m2 hn1).ne'
  rw [Nat.cast_mul, Nat.cast_mul, Nat.cast_div (Nat.gcd_dvd_left ..) hg1, Nat.cast_div (Nat.gcd_dvd_left ..) hg2,
    Nat.cast_div (Nat.gcd_dvd_right ..) hg1, Nat.cast_div (Nat.gcd_dvd_right ..) hg2]
  field_simp

/-- A signed quotient of coprime magnitudes is in lowest terms. -/
theorem signed_quotient_num_and_den {s : Int} {a n : Nat} (hs : s.natAbs = 1) (hn : 0 < n) (hcop : a.Coprime n) :
    (s * (a / n) : ℚ).num.natAbs = a ∧ (s * (a / n) : ℚ).den = n := by
  have habs : (s * a).natAbs = a := natAbs_unit_mul hs a
  have hn' : (0 : Int) < n := by exact_mod_cast hn
  have hcop' : (s * a).natAbs.Coprime (n : Int).natAbs := by rwa [habs, Int.natAbs_natCast]
  have hz : (s * (a / n) : ℚ) = (s * a : Int) / (n : Int) := by push_cast; ring
  rw [hz, Rat.num_div_eq_of_coprime hn' hcop']
  exact ⟨habs, Int.natCast_inj.mp (Rat.den_div_eq_of_coprime hn' hcop')⟩

/-- Both paths of R160 test the two products and store their quotient; on the narrow path the tests cannot fail. -/
theorem mulCancelled_eq {s : Int} {a1 a2 n1 n2 : Nat} (hs : s.natAbs = 1) (hn : 0 < n1 * n2) :
    mulCancelled s a1 a2 n1 n2 = rangeTested (a1 * a2) (n1 * n2) (s * ((a1 * a2 : Nat) / (n1 * n2 : Nat))) := by
  have hpos : (0 : Int) < (n1 * n2 : Nat) := by exact_mod_cast hn
  have hreduce (h : ((a1 * a2 : Nat) : Int) ≤ MAX) : reduce (s * (a1 * a2 : Nat)) (n1 * n2 : Nat) =
      .ok (lowestTerms (s * ((a1 * a2 : Nat) / (n1 * n2 : Nat)))) := by
    rw [reduce_of_natAbs_le hpos (by rwa [natAbs_unit_mul hs]), Int.cast_mul, Int.cast_natCast, Int.cast_natCast,
      mul_div_assoc]
  unfold mulCancelled
  split
  · rename_i h
    obtain ⟨ha1, ha2, hn1, hn2⟩ := h
    have ha : a1 * a2 < 2 ^ 62 := by exact_mod_cast natAbs_mul_lt_of_narrow (a := a1) (b := a2) ha1 ha2
    have hn : n1 * n2 < 2 ^ 62 := by exact_mod_cast natAbs_mul_lt_of_narrow (a := n1) (b := n2) hn1 hn2
    have ha' : ((a1 * a2 : Nat) : Int) ≤ MAX := by unfold MAX; omega
    have hn' : ((n1 * n2 : Nat) : Int) ≤ MAX := by unfold MAX; omega
    rw [mul_assoc, ← Nat.cast_mul, hreduce ha', rangeTested_of_le ha' hn']
  · unfold rangeTested
    split
    · rfl
    · split
      · rfl
      · exact hreduce (not_lt.mp ‹_›)

section
variable {x y : Ratio} (hx : x.Storable) (hy : y.Storable)
include hx hy

/-- What multiplication tests are the two parts of the exact product in lowest terms (R161). -/
theorem mulCore_eq :
    mulCore x y = rangeTested (x.value * y.value).num.natAbs (x.value * y.value).den (x.value * y.value) := by
  unfold mulCore
  split
  · rename_i h0
    have hzero : x.value * y.value = 0 := by rcases h0 with h | h <;> simp [Ratio.value, h]
    rw [hzero]
    rfl
  · rename_i h0
    obtain ⟨hx0, hy0⟩ := not_or.mp h0
    have hn1 := hx.natAbs_den_pos
    have hn2 := hy.natAbs_den_pos
    have hcop := coprime_crossCancelled hx.coprime hy.coprime hn1 hn2
    have hs : (x.num.sign * y.num.sign).natAbs = 1 := by
      rw [Int.natAbs_mul, Int.natAbs_sign_of_ne_zero hx0, Int.natAbs_sign_of_ne_zero hy0]
    have hn : 0 < x.den.natAbs / y.num.natAbs.gcd x.den.natAbs * (y.den.natAbs / x.num.natAbs.gcd y.den.natAbs) :=
      Nat.mul_pos (Nat.div_gcd_pos_of_pos_right _ hn1) (Nat.div_gcd_pos_of_pos_right _ hn2)
    have hz : x.value * y.value = (x.num.sign * y.num.sign : Int) *
        ((x.num.natAbs : ℚ) / x.den.natAbs * (y.num.natAbs / y.den.natAbs)) := by
      rw [value_eq_sign_mul hx, value_eq_sign_mul hy, Int.cast_mul]
      ring
    rw [← crossCancelled_quotient _ _ hn1 hn2] at hz
    obtain ⟨hnum, hden⟩ := signed_quotient_num_and_den hs hn hcop
    rw [hz, hnum, hden]
    exact mulCancelled_eq hs hn

end

/-- The inverse pair of R162 denotes the inverse. -/
theorem value_inverse {x : Ratio} (h0 : x.num ≠ 0) :
    Ratio.value ⟨x.num.sign * x.den, x.num.natAbs⟩ = x.value⁻¹ := by
  have hmul : x.num.sign * x.num = x.num.natAbs := Int.sign_mul_self_eq_natAbs x.num
  have hnum : (x.num : ℚ) ≠ 0 := by exact_mod_cast h0
  have habs : ((x.num.natAbs : Int) : ℚ) ≠ 0 := by exact_mod_cast Int.natAbs_ne_zero.mpr h0
  rw [Ratio.value, Ratio.value, inv_div, div_eq_div_iff habs hnum, ← hmul]
  push_cast
  ring

theorem divRatio_of_num_eq_zero (x : Ratio) {y : Ratio} (h0 : y.num = 0) : divRatio x y = .error .divisionByZero := by
  rw [divRatio, invCore, if_pos h0]

theorem invCore_of_ne_zero {x : Ratio} (h0 : x.num ≠ 0) : invCore x = .ok ⟨x.num.sign * x.den, x.num.natAbs⟩ :=
  if_neg h0

/-- Division is multiplication by the inverse (R164). -/
theorem divRatio_eq {x y : Ratio} (hx : x.Storable) (hy : y.Storable) (h0 : y.num ≠ 0) :
    divRatio x y = rangeTested (x.value / y.value).num.natAbs (x.value / y.value).den (x.value / y.value) := by
  have hdiv : divRatio x y = mulCore x ⟨y.num.sign * y.den, y.num.natAbs⟩ := by
    rw [divRatio, invCore_of_ne_zero h0]
  rw [hdiv, mulCore_eq hx (storable_inverse hy h0), value_inverse h0, div_eq_mul_inv]

/-! ### The commands -/

/-- A command that checks one valid source ends as its rule does. -/
theorem exec_of_checkQ {i : Instr} {s : State} {x : RatReg} {rd : QReg} {f : Ratio → Except ErrKind Ratio}
    (h : exec i s = checkQ x s fun a => finishRatio rd (f a) s) (hx : x.valid = true) :
    exec i s = finishRatio rd (f x.toRatio) s := h.trans (checkQ_valid hx)

/-- A command that checks two valid sources ends as its rule does. -/
theorem exec_of_checkQQ {i : Instr} {s : State} {x y : RatReg} {rd : QReg}
    {f : Ratio → Ratio → Except ErrKind Ratio}
    (h : exec i s = checkQQ x y s fun a b => finishRatio rd (f a b) s) (hx : x.valid = true) (hy : y.valid = true) :
    exec i s = finishRatio rd (f x.toRatio y.toRatio) s := h.trans (checkQQ_valid hx hy)

/-- Two commands that check the same two sources in either order end alike where their rules agree on valid sources:
otherwise both report the invalid one (30_encoding.md R92). -/
theorem exec_eq_of_checkQQ_comm {i j : Instr} {s : State} {x y : RatReg} {rd : QReg}
    {f : Ratio → Ratio → Except ErrKind Ratio} (hi : exec i s = checkQQ x y s fun a b => finishRatio rd (f a b) s)
    (hj : exec j s = checkQQ y x s fun a b => finishRatio rd (f a b) s)
    (h : x.toRatio.Storable → y.toRatio.Storable → f x.toRatio y.toRatio = f y.toRatio x.toRatio) :
    exec i s = exec j s := by
  by_cases hv : x.valid = true ∧ y.valid = true
  · obtain ⟨hx, hy⟩ := hv
    rw [exec_of_checkQQ hi hx hy, exec_of_checkQQ hj hy hx, h (x.valid_iff_storable.mp hx) (y.valid_iff_storable.mp hy)]
  · have hinvalid : x.valid = false ∨ y.valid = false := by simpa [or_iff_not_imp_left] using hv
    rw [hi, hj, checkQQ_invalid hinvalid, checkQQ_invalid hinvalid.symm]

/-- Settles O43: R153's tests, then the sum. -/
theorem qaddStoresTheSumOrReports : Obligations.QaddStoresTheSumOrReports := by
  intro s rd rs1 rs2 h1 h2 x y q l
  have hx := x.valid_iff_storable.mp h1
  have hy := y.valid_iff_storable.mp h2
  exact ends_of_rangeTested (exec_of_checkQQ rfl h1 h2) (addRatio_eq hx hy)

/-- Settles O44: the negation of a storable pair is storable, so QADD's rule applies to it. -/
theorem qsubStoresTheDifferenceOrReports : Obligations.QsubStoresTheDifferenceOrReports := by
  intro s rd rs1 rs2 h1 h2 x y q l
  have hx := x.valid_iff_storable.mp h1
  have hy := y.valid_iff_storable.mp h2
  have hq : sumMag x.toRatio (negRatio y.toRatio) = q := by
    simp [sumMag, negRatio, q, RatReg.toRatio, sub_eq_add_neg]
  have hrule := addRatio_eq hx (storable_negRatio hy)
  rw [value_negRatio, ← sub_eq_add_neg, hq] at hrule
  exact ends_of_rangeTested (exec_of_checkQQ rfl h1 h2) hrule

/-- Settles O46: the tested magnitudes and the exact result are symmetric in the operands. -/
theorem qaddAndQmulCommute : Obligations.QaddAndQmulCommute := by
  intro s rd rs1 rs2
  constructor
  · refine exec_eq_of_checkQQ_comm rfl rfl fun hx hy => ?_
    rw [addRatio_eq hx hy, addRatio_eq hy hx, sumMag_comm, sumDen_comm, add_comm]
  · refine exec_eq_of_checkQQ_comm rfl rfl fun hx hy => ?_
    rw [mulCore_eq hx hy, mulCore_eq hy hx, mul_comm]

/-- Settles O47: R160 tests the parts of the product in lowest terms. -/
theorem qmulStoresTheProductOrReports : Obligations.QmulStoresTheProductOrReports := by
  intro s rd rs1 rs2 h1 h2 z
  have hx := (readQ s rs1).valid_iff_storable.mp h1
  have hy := (readQ s rs2).valid_iff_storable.mp h2
  rw [Int.abs_eq_natAbs]
  exact ends_of_rangeTested (exec_of_checkQQ rfl h1 h2) (mulCore_eq hx hy)

/-- Settles O48: the zero divisor is found by the inverse, before the multiplication. -/
theorem qdivStoresTheQuotientOrReports : Obligations.QdivStoresTheQuotientOrReports := by
  intro s rd rs1 rs2 h1 h2 y z
  have hx := (readQ s rs1).valid_iff_storable.mp h1
  have hy := (readQ s rs2).valid_iff_storable.mp h2
  have hzero : y = 0 ↔ (readQ s rs2).num = 0 := value_eq_zero_iff h2
  have hexec : exec (.qdiv rd rs1 rs2) s = _ := exec_of_checkQQ rfl h1 h2
  have hends (h0 : y ≠ 0) := ends_of_rangeTested hexec (divRatio_eq hx hy (mt hzero.mpr h0))
  rw [imp_and, imp_and] at hends
  rw [Int.abs_eq_natAbs]
  exact ⟨fun h0 => reports_of_error hexec (divRatio_of_num_eq_zero _ (hzero.mp h0)), hends⟩

/-- Settles O49: the inverse is storable as it stands. -/
theorem qinvStoresTheInverseOrReports : Obligations.QinvStoresTheInverseOrReports := by
  intro s rd rs1 h1
  have hx := (readQ s rs1).valid_iff_storable.mp h1
  have hexec : exec (.qinv rd rs1) s = _ := exec_of_checkQ rfl h1
  rw [ne_eq, value_eq_zero_iff h1]
  refine ⟨fun h0 => reports_of_error hexec (if_pos h0), fun h0 => ?_⟩
  have hfin := finishesQ_of_ok hexec (invCore_of_ne_zero h0)
  rwa [storeRatio_eq_ratPattern (storable_inverse hx h0), value_inverse h0] at hfin

/-- Settles O50: negation and absolute value of a storable pair are storable. -/
theorem qnegAndQabsStoreTheirValue : Obligations.QnegAndQabsStoreTheirValue := by
  intro s rd rs1 h1
  have hx := (readQ s rs1).valid_iff_storable.mp h1
  rw [← value_toRatio, ← value_negRatio, ← value_natAbs hx, ← storeRatio_eq_ratPattern (storable_negRatio hx),
    ← storeRatio_eq_ratPattern (storable_natAbs hx)]
  exact ⟨finishesQ_of_ok (exec_of_checkQ (f := fun a => .ok (negRatio a)) rfl h1) rfl,
    finishesQ_of_ok (exec_of_checkQ (f := fun a => .ok ⟨a.num.natAbs, a.den⟩) rfl h1) rfl⟩

end Sys2Proof.Machine
end

section
/-! PROOFS. Q2F (43_convert.md R200 to R202): numbers that 53 significant bits hold, which each of its roundings leaves
as they are, the flag of R201, and when the double equals the source. -/

namespace Sys2Proof.Machine

/-! ### The flag (R201) -/

theorem bitlen_le_iff {k n : Nat} : bitlen k ≤ n ↔ k < 2 ^ n := by
  unfold bitlen
  split
  case isTrue h => simp [h]
  case isFalse h => rw [Nat.succ_le_iff, Nat.log2_lt h]

theorem isPow2_iff {k : Nat} : isPow2 k = true ↔ ∃ j, k = 2 ^ j := by
  constructor
  · intro h
    have hk : 0 < k ∧ k = 2 ^ Nat.log2 k := by simpa [isPow2] using h
    exact ⟨_, hk.2⟩
  · rintro ⟨j, rfl⟩
    simp [isPow2, Nat.log2_two_pow]

/-- The flag without its cases: zero has 0 bits, and 1 is a power of two. -/
theorem exactFlag_iff {x : Ratio} (hx : x.Storable) :
    exactFlag x = true ↔ x.num.natAbs < 2 ^ 53 ∧ ∃ k : Nat, x.den = 2 ^ k := by
  have hden : x.den.toNat = x.den := Int.toNat_of_nonneg (Int.le_of_lt hx.den_pos)
  have hpow : isPow2 x.den.toNat = true ↔ ∃ k : Nat, x.den = 2 ^ k := by
    rw [isPow2_iff, ← hden]
    exact_mod_cast Iff.rfl
  unfold exactFlag
  split_ifs with h0 h1
  · rw [h0, hx.den_eq_one h0]
    exact iff_of_true rfl ⟨by norm_num, 0, rfl⟩
  · rw [decide_eq_true_eq, bitlen_le_iff, iff_self_and]
    exact fun _ => ⟨0, h1⟩
  · rw [Bool.and_eq_true, decide_eq_true_eq, bitlen_le_iff, hpow]

/-! ### Numbers that 53 significant bits hold -/

/-- The magnitude of `z` is a significand of at most 53 bits at some exponent. -/
def FitsSignificand (z : ℚ) : Prop := ∃ m : Nat, m < 2 ^ 53 ∧ ∃ e : Int, |z| = m * 2 ^ e

theorem fitsSignificand_intCast {i : Int} (h : i.natAbs < 2 ^ 53) : FitsSignificand i :=
  ⟨i.natAbs, h, 0, by rw [zpow_zero, mul_one, Nat.cast_natAbs, Int.cast_abs]⟩

theorem fitsSignificand_two_pow (k : Nat) : FitsSignificand (2 ^ k) :=
  ⟨1, by norm_num, k, by rw [Nat.cast_one, one_mul, zpow_natCast, abs_of_pos (by positivity)]⟩

section
variable {z : ℚ} (h : FitsSignificand z)
include h

/-- In lowest terms such a number is an integer, or a numerator of at most 53 bits over a power of two. -/
theorem FitsSignificand.den_and_num : (∃ k, z.den = 2 ^ k) ∧ (z.den = 1 ∨ z.num.natAbs < 2 ^ 53) := by
  obtain ⟨m, hm, e, he⟩ := h
  obtain ⟨k, rfl | rfl⟩ := Int.eq_nat_or_neg e
  · have hint : |z| = (m * 2 ^ k : Nat) := by simpa using he
    have hden : z.den = 1 := by rw [← Rat.den_abs_eq_den, hint, Rat.den_natCast]
    exact ⟨⟨0, hden⟩, .inl hden⟩
  · have hquot : |z| = Rat.divInt m (2 ^ k : Nat) := by
      rw [he, zpow_neg, zpow_natCast, Rat.divInt_eq_div]
      push_cast
      rw [div_eq_mul_inv]
    have hden : z.den ∣ 2 ^ k := by
      rw [← Rat.den_abs_eq_den, hquot]
      exact_mod_cast Rat.den_dvd m (2 ^ k : Nat)
    have hnum : z.num.natAbs ∣ m := by
      rw [← Int.natAbs_abs, ← Rat.num_abs_eq_abs_num, hquot]
      exact Int.natAbs_dvd_natAbs.mpr (Rat.num_dvd m (by positivity))
    obtain ⟨j, -, hj⟩ := (Nat.dvd_prime_pow Nat.prime_two).mp hden
    refine ⟨⟨j, hj⟩, .inr ?_⟩
    rcases m.eq_zero_or_pos with rfl | hpos
    · have hz : z = 0 := by simpa using he
      simp [hz]
    · exact (Nat.le_of_dvd hpos hnum).trans_lt hm

theorem FitsSignificand.num : FitsSignificand z.num := by
  rcases h.den_and_num.2 with hden | hnum
  · rwa [Rat.coe_int_num_of_den_eq_one hden]
  · exact fitsSignificand_intCast hnum

theorem FitsSignificand.den : FitsSignificand z.den := by
  obtain ⟨⟨k, hk⟩, -⟩ := h.den_and_num
  rw [hk]
  exact_mod_cast fitsSignificand_two_pow k

end

/-! ### Rounding leaves them as they are -/

/-- A candidate at distance 0 is nearest. -/
theorem roundQuotient_mag_of_fits (neg : Bool) {a b : Nat} (ha : 0 < a) (hb : 0 < b)
    (h : FitsSignificand (a / b)) : (roundQuotient neg a b).mag = a / b := by
  obtain ⟨m, hm, e, he⟩ := h
  rw [abs_of_nonneg (by positivity)] at he
  have hscaled : scaledQuotient a b = m * 2 ^ (e - sigExp a b) := by
    rw [scaledQuotient, he, mul_assoc, ← zpow_add₀ two_ne_zero, sub_eq_add_neg]
  obtain ⟨hnear, -⟩ := nearest_significand_of_half (scaledQuotient_bounds ha hb).1 (abs_sub_roundedSig a hb).1 hm
    (e - sigExp a b)
  rw [← hscaled, sub_self, abs_zero, abs_nonpos_iff, sub_eq_zero] at hnear
  rw [roundQuotient_mag neg ha, ← hnear, scaledQuotient_mul]

theorem f64OfInt_mag_of_fits {i : Int} (hi : i ≠ 0) (h : FitsSignificand i) : (f64OfInt i).mag = |(i : ℚ)| := by
  have habs : ((i.natAbs : Nat) : ℚ) / (1 : Nat) = |(i : ℚ)| := by
    rw [Nat.cast_one, div_one, Nat.cast_natAbs, Int.cast_abs]
  have hmag := roundQuotient_mag_of_fits (decide (i < 0)) (Int.natAbs_pos.mpr hi) one_pos
  rw [habs] at hmag
  exact hmag (by rwa [FitsSignificand, abs_abs])

theorem f64Div_mag_of_fits {x y : F64} (hx : x.Normalized) (hy : y.Normalized)
    (h : FitsSignificand (x.mag / y.mag)) : (f64Div x y).mag = x.mag / y.mag := by
  rw [← f64Div_quotient] at h ⊢
  exact roundQuotient_mag_of_fits _ (f64Div_fst_pos hx) (f64Div_snd_pos hy) h

/-! ### The value of a double -/

/-- The number an F64 denotes (00_scope.md R18). -/
def F64.value (f : F64) : ℚ := (if f.neg then -1 else 1) * f.mag

theorem F64.mag_nonneg (f : F64) : 0 ≤ f.mag := by
  unfold F64.mag
  positivity

@[simp] theorem F64.abs_value (f : F64) : |f.value| = f.mag := by
  have hsign : |(if f.neg then -1 else 1 : ℚ)| = 1 := by split <;> simp
  rw [F64.value, abs_mul, hsign, one_mul, abs_of_nonneg f.mag_nonneg]

theorem F64.fitsSignificand_value {f : F64} (h : f.sig < 2 ^ 53) : FitsSignificand f.value :=
  ⟨f.sig, h, f.exp, f.abs_value⟩

/-- Sign, significand and exponent of a finite binary64 word (43_convert.md R203). -/
def wordF64 (w : Word) : F64 :=
  if f64Exp w = 0 then ⟨w.getLsbD 63, f64Frac w, -1074⟩
  else ⟨w.getLsbD 63, 2 ^ 52 + f64Frac w, (f64Exp w : Int) - 1075⟩

theorem f64Frac_lt (w : Word) : f64Frac w < 2 ^ 52 := (w.extractLsb' 0 52).isLt

theorem wordF64_sig_lt (w : Word) : (wordF64 w).sig < 2 ^ 53 := by
  have hfrac := f64Frac_lt w
  unfold wordF64
  split <;> dsimp only <;> omega

theorem value_wordF64 (w : Word) : (wordF64 w).value = f64Value w := by
  unfold wordF64 f64Value
  split
  · rfl
  · simp only [F64.value, F64.mag, Nat.cast_add, Nat.cast_pow, Nat.cast_ofNat]

theorem fitsSignificand_f64Value (w : Word) : FitsSignificand (f64Value w) :=
  value_wordF64 w ▸ F64.fitsSignificand_value (wordF64_sig_lt w)

/-! ### Q2F of a valid source -/

/-- +0.0 is the double of zero (R200). -/
theorem f64Bits_toF64_of_num_eq_zero {x : Ratio} (h0 : x.num = 0) : f64Bits (toF64 x) = 0 := by
  have hzero (y : F64) : f64Div f64Zero y = f64Zero := by simp [f64Div, f64Zero, scaleBy, roundQuotient]
  rw [toF64, h0, f64OfInt, Int.natAbs_zero, roundQuotient, if_pos rfl, hzero]
  rfl

theorem f64Value_zero : f64Value 0 = 0 := by simp [f64Value, f64Exp, f64Frac]

section
variable {x : RatReg} (hx : x.valid = true)
include hx

theorem value_num_and_den : x.value.num = x.num ∧ (x.value.den : Int) = x.den := by
  have hlow := lowestTerms_value (x.valid_iff_storable.mp hx)
  exact ⟨congrArg Ratio.num hlow, congrArg Ratio.den hlow⟩

theorem exactFlag_toRatio_iff : exactFlag x.toRatio = true ↔ x.num.natAbs < 2 ^ 53 ∧ ∃ k : Nat, x.den = 2 ^ k :=
  exactFlag_iff (x.valid_iff_storable.mp hx)

/-- The flag and the form of the value (R201): it is sufficient, and necessary for a value that is no integer. -/
theorem fitsSignificand_of_exactFlag (h : exactFlag x.toRatio = true) : FitsSignificand x.value := by
  obtain ⟨hnum, k, hden⟩ := (exactFlag_toRatio_iff hx).mp h
  refine ⟨x.num.natAbs, hnum, -k, ?_⟩
  rw [RatReg.value, hden, abs_div, Int.cast_pow, Int.cast_ofNat, abs_of_pos (a := (2 : ℚ) ^ k) (by positivity),
    Nat.cast_natAbs, Int.cast_abs, zpow_neg, zpow_natCast, div_eq_mul_inv]

theorem exactFlag_of_fitsSignificand (hden : x.den ≠ 1) (h : FitsSignificand x.value) :
    exactFlag x.toRatio = true := by
  obtain ⟨hvnum, hvden⟩ := value_num_and_den hx
  obtain ⟨⟨k, hk⟩, hint | hnum⟩ := h.den_and_num
  · exact absurd (hvden ▸ congrArg Nat.cast hint) hden
  · rw [exactFlag_toRatio_iff hx, ← hvnum, ← hvden]
    exact ⟨hnum, k, by exact_mod_cast hk⟩

/-- None of the three roundings of R200 changes a value that 53 significant bits hold. -/
theorem toF64_mag_of_fits (h0 : x.num ≠ 0) (h : FitsSignificand x.value) : (toF64 x.toRatio).mag = |x.value| := by
  obtain ⟨hvnum, hvden⟩ := value_num_and_den hx
  have hd0 : x.den ≠ 0 := (RatReg.den_pos_of_valid hx).ne'
  have hnum : (f64OfInt x.num).mag = |(x.num : ℚ)| := f64OfInt_mag_of_fits h0 (hvnum ▸ h.num)
  have hden : (f64OfInt x.den).mag = |(x.den : ℚ)| :=
    f64OfInt_mag_of_fits hd0 (hvden ▸ by exact_mod_cast h.den)
  have hquot : (f64OfInt x.num).mag / (f64OfInt x.den).mag = |x.value| := by rw [hnum, hden, RatReg.value, abs_div]
  have hfits : FitsSignificand |x.value| := by rwa [FitsSignificand, abs_abs]
  rw [← hquot] at hfits ⊢
  exact f64Div_mag_of_fits (f64OfInt_normalized h0) (f64OfInt_normalized hd0) hfits

/-- Q2F is exact on the values that 53 significant bits hold, and on no others. -/
theorem f64Value_toF64_eq_iff : f64Value (f64Bits (toF64 x.toRatio)) = x.value ↔ FitsSignificand x.value := by
  refine ⟨fun h => h ▸ fitsSignificand_f64Value _, fun h => ?_⟩
  by_cases h0 : x.num = 0
  · have hbits : f64Bits (toF64 x.toRatio) = 0 := f64Bits_toF64_of_num_eq_zero h0
    rw [hbits, f64Value_zero, (value_eq_zero_iff hx).mpr h0]
  · obtain ⟨-, -, hval⟩ := q2fResultIsNormal x hx h0
    rw [hval, toF64_mag_of_fits hx h0 h]
    split
    case isTrue hneg => rw [abs_of_neg ((value_neg_iff hx).mpr hneg), neg_one_mul, neg_neg]
    case isFalse hneg => rw [abs_of_nonneg (not_lt.mp (mt (value_neg_iff hx).mp hneg)), one_mul]

end

/-- Q2F of a valid source writes R200's double and R201's flag. -/
theorem finishes_q2f {s : State} (rd : GReg) {rs1 : QReg} (hx : (readQ s rs1).valid = true) :
    Finishes (.q2f rd rs1) s (s.g.set rd (f64Bits (toF64 (readQ s rs1).toRatio))) s.q
      (exactFlag (readQ s rs1).toRatio) :=
  ⟨_, checkQ_valid (rule := fun x => finish (writeExact (writeG s rd (f64Bits (toF64 x))) (exactFlag x))) hx,
    done_completeOk rfl rfl (.inr rfl) (statusExact_withExact ..) rfl rfl rfl⟩

/-- Settles O52: `finishes_q2f`, with the flag without its cases. -/
theorem q2fWritesTheQuotientAndFlag : Obligations.Q2fWritesTheQuotientAndFlag :=
  fun _ rd _ hx => ⟨_, exactFlag_toRatio_iff hx, finishes_q2f rd hx⟩

/-- Settles O55: Q2F is exact where 53 significant bits hold the value, which the flag tests for a value that is no
integer. -/
theorem exactFlagMeansTheDoubleEqualsTheValue : Obligations.ExactFlagMeansTheDoubleEqualsTheValue := by
  intro x hx
  rw [f64Value_toF64_eq_iff hx]
  exact ⟨fitsSignificand_of_exactFlag hx, exactFlag_of_fitsSignificand hx⟩

end Sys2Proof.Machine
end

section
/-! PROOFS. F2Q (43_convert.md R203 to R205): its rule stores the value of the double exactly or reports as the range
tests of two magnitudes say; and the round trips of R206. -/

namespace Sys2Proof.Machine

theorem natCast_le_max_iff {n : Nat} : (n : Int) ≤ MAX ↔ n < 2 ^ 63 := by
  unfold MAX
  omega

theorem max_lt_natCast_iff {n : Nat} : MAX < (n : Int) ↔ 2 ^ 63 ≤ n := by
  rw [← not_le, natCast_le_max_iff, not_lt]

/-! ### The rule on an odd significand (R204) -/

/-- The rule that stores `z` exactly, in lowest terms, or reports the part that is out of range. -/
def exactOrReport (z : ℚ) : Except ErrKind Ratio := rangeTested z.num.natAbs z.den z

theorem exactOrReport_value {x : Ratio} (hx : x.Storable) : exactOrReport x.value = .ok x := by
  have hlow := lowestTerms_value hx
  have hnum : x.value.num = x.num := congrArg Ratio.num hlow
  have hden : (x.value.den : Int) = x.den := congrArg Ratio.den hlow
  rw [exactOrReport, rangeTested_of_le (hnum ▸ hx.num_le) (hden ▸ hx.den_le), hlow]

theorem exactOrReport_zero : exactOrReport 0 = .ok ⟨0, 1⟩ := rfl

theorem eq_lowestTerms_of_exactOrReport {z : ℚ} {p : Ratio} (h : exactOrReport z = .ok p) : p = lowestTerms z := by
  unfold exactOrReport rangeTested at h
  split_ifs at h
  exact (Except.ok.inj h).symm

/-- The range tests of a quotient in lowest terms are those of its two parts. -/
theorem exactOrReport_quotient {n d : Int} (hd : 0 < d) (hcop : n.natAbs.Coprime d.natAbs) :
    exactOrReport (n / d) = if MAX < n.natAbs then .error .numeratorOverflow
      else if MAX < d then .error .denominatorOverflow else .ok ⟨n, d⟩ := by
  rw [exactOrReport, rangeTested, lowestTerms, Rat.num_div_eq_of_coprime hd hcop, Rat.den_div_eq_of_coprime hd hcop]

theorem cast_applySign (neg : Bool) (i : Int) : (applySign neg i : ℚ) = (if neg then -1 else 1) * i := by
  cases neg <;> simp [applySign]

theorem bitlen_mul_two_pow {m : Nat} (hm : 0 < m) (k : Nat) : bitlen (m * 2 ^ k) = bitlen m + k := by
  induction k with
  | zero => simp
  | succ k ih =>
    have hpos : 0 < m * 2 ^ k := by positivity
    rw [pow_succ', Nat.mul_left_comm, ← Nat.add_assoc, ← ih]
    simp only [bitlen, hpos.ne', (Nat.mul_pos two_pos hpos).ne', if_false, Nat.log2_two_mul hpos.ne']

/-- R204 for an integer: the bit length tests the magnitude. -/
theorem fromOdd_natCast (neg : Bool) {m : Nat} (hm : 0 < m) (k : Nat) :
    fromOdd neg m k = exactOrReport (F64.mk neg m k).value := by
  have hval : (F64.mk neg m k).value = (applySign neg (m * 2 ^ k) : Int) / (1 : Int) := by
    simp [F64.value, F64.mag, cast_applySign]
  have habs : (applySign neg (m * 2 ^ k)).natAbs = m * 2 ^ k := by
    rw [natAbs_applySign]
    exact_mod_cast Int.natAbs_natCast _
  have htest : 63 < (bitlen m : Int) + k ↔ MAX < (applySign neg (m * 2 ^ k)).natAbs := by
    have hlen : bitlen m + k ≤ 63 ↔ m * 2 ^ k < 2 ^ 63 := by rw [← bitlen_mul_two_pow hm, bitlen_le_iff]
    rw [habs, max_lt_natCast_iff]
    omega
  rw [hval, exactOrReport_quotient one_pos (Nat.coprime_one_right _), fromOdd, if_pos (Int.natCast_nonneg k),
    Int.toNat_natCast]
  simp only [htest, show ¬MAX < 1 by decide, if_false]

/-- R204 for a number that is no integer: an odd significand has nothing to cancel. -/
theorem fromOdd_neg (neg : Bool) {m : Nat} (hodd : m % 2 = 1) (hm : m < 2 ^ 53) {k : Nat} (hk : 0 < k) :
    fromOdd neg m (-k) = exactOrReport (F64.mk neg m (-k)).value := by
  have hval : (F64.mk neg m (-k)).value = (applySign neg m : Int) / (2 ^ k : Int) := by
    simp [F64.value, F64.mag, cast_applySign, div_eq_mul_inv]
  have habs : (applySign neg m).natAbs = m := by simp
  have hcop : (applySign neg m).natAbs.Coprime (2 ^ k : Int).natAbs := by
    rw [habs, Int.natAbs_pow]
    exact (Nat.odd_iff.mpr hodd).coprime_two_right.pow_right k
  have hnum : ¬MAX < (applySign neg m).natAbs := by
    rw [habs, max_lt_natCast_iff]
    omega
  have htest : 63 ≤ (k : Int) ↔ MAX < 2 ^ k := by
    rw [MAX, Int.sub_one_lt_iff, pow_le_pow_iff_right₀ one_lt_two]
    exact_mod_cast Iff.rfl
  rw [hval, exactOrReport_quotient (by positivity) hcop, fromOdd, if_neg (by omega), if_neg hnum, neg_neg,
    Int.toNat_natCast]
  simp only [htest]

theorem fromOdd_eq (neg : Bool) {m : Nat} (hodd : m % 2 = 1) (hm : m < 2 ^ 53) (e : Int) :
    fromOdd neg m e = exactOrReport (F64.mk neg m e).value := by
  rcases le_or_gt 0 e with he | he
  · lift e to Nat using he
    exact fromOdd_natCast neg (by omega) e
  · obtain ⟨k, rfl⟩ := Int.exists_eq_neg_ofNat he.le
    exact fromOdd_neg neg hodd hm (by omega)

/-! ### The rule on a word (R203) -/

theorem two_pow_trailingZeros_dvd (fuel m : Nat) : 2 ^ trailingZeros fuel m ∣ m := by
  induction fuel generalizing m with
  | zero => simp [trailingZeros]
  | succ fuel ih =>
    unfold trailingZeros
    split
    case isTrue => simp
    case isFalse h =>
      rw [pow_succ, ← Nat.div_mul_cancel (Nat.dvd_of_mod_eq_zero (Nat.mod_two_ne_one.mp h))]
      simpa using Nat.mul_dvd_mul_right (ih (m / 2)) 2

/-- Stripping the trailing zeros keeps the value. -/
theorem fromParts_eq (neg : Bool) {m : Nat} (h0 : 0 < m) (hm : m < 2 ^ 53) (e : Int) :
    fromParts neg m e = exactOrReport (F64.mk neg m e).value := by
  have hdvd := two_pow_trailingZeros_dvd 53 m
  have hval : (F64.mk neg (m / 2 ^ trailingZeros 53 m) (e + trailingZeros 53 m)).value = (F64.mk neg m e).value := by
    simp only [F64.value, F64.mag]
    rw [Nat.cast_div hdvd (by positivity), zpow_add₀ two_ne_zero, zpow_natCast, Nat.cast_pow, Nat.cast_ofNat,
      mul_comm (2 ^ e), ← mul_assoc (_ / _), div_mul_cancel₀ _ (by positivity)]
  rw [fromParts, fromOdd_eq neg (div_two_pow_trailingZeros_odd 53 m h0 hm) ((Nat.div_le_self ..).trans_lt hm), hval]

/-- F2Q's rule on a finite double. -/
theorem fromF64_of_finite {w : Word} (h : f64Exp w ≠ 0x7FF) : fromF64 w = exactOrReport (f64Value w) := by
  have hfrac := f64Frac_lt w
  rw [fromF64, if_neg h, ← value_wordF64, wordF64]
  split
  · split
    case isTrue h0 =>
      have hzero : (F64.mk (w.getLsbD 63) (f64Frac w) (-1074)).value = 0 := by simp [F64.value, F64.mag, h0]
      rw [hzero, exactOrReport_zero]
    case isFalse h0 => exact fromParts_eq _ (by omega) (by omega) _
  · exact fromParts_eq _ (by omega) (by omega) _

/-! ### F2Q -/

theorem abs_le_natAbs_num (z : ℚ) : |z| ≤ z.num.natAbs := by
  have hden : (1 : ℚ) ≤ z.den := by exact_mod_cast z.den_pos
  rw [Rat.abs_def, Rat.divInt_eq_div, Int.cast_natCast, Int.cast_natCast]
  exact div_le_self (Nat.cast_nonneg _) hden

/-- A double below 2^63 has a numerator in range: it is an integer, or its numerator has at most 53 bits. -/
theorem FitsSignificand.natAbs_num_le {z : ℚ} (hz : FitsSignificand z) (h : z.den = 1 → |z| < 2 ^ 63) :
    (z.num.natAbs : Int) ≤ MAX := by
  rw [natCast_le_max_iff]
  rcases hz.den_and_num.2 with hden | hnum
  · have habs : |z| = z.num.natAbs := by
      rw [Nat.cast_natAbs, Int.cast_abs, Rat.coe_int_num_of_den_eq_one hden]
    exact_mod_cast habs ▸ h hden
  · exact hnum.trans (by norm_num)

/-- Settles O56: the range tests of the value of a finite double, which never compete. -/
theorem f2qStoresTheExactValueOrReports : Obligations.F2qStoresTheExactValueOrReports := by
  intro s rd rs1 w z
  have hexec : exec (.f2q rd rs1) s = finishRatio rd (fromF64 w) s := rfl
  have hends (h : f64Exp w ≠ 0x7FF) := ends_of_rangeTested hexec (fromF64_of_finite h)
  have hz : FitsSignificand z := fitsSignificand_f64Value w
  refine ⟨fun h hf => ?_, fun h hf => ?_, fun h habs => ?_, fun h hden => ?_, fun h habs hden => ?_⟩
  · exact reports_of_error hexec (by rw [fromF64, if_pos h, if_neg hf])
  · exact reports_of_error hexec (by rw [fromF64, if_pos h, if_pos hf])
  · obtain ⟨hnumOverflow, -, -⟩ := hends h
    have hnum : 2 ^ 63 ≤ z.num.natAbs := by exact_mod_cast habs.trans (abs_le_natAbs_num z)
    exact hnumOverflow (max_lt_natCast_iff.mpr hnum)
  · obtain ⟨-, hdenOverflow, -⟩ := hends h
    exact hdenOverflow (hz.natAbs_num_le (by omega)) (max_lt_natCast_iff.mpr hden)
  · obtain ⟨-, -, hstores⟩ := hends h
    exact hstores (hz.natAbs_num_le fun _ => habs) (natCast_le_max_iff.mpr hden)

end Sys2Proof.Machine
end

section
/-! PROOFS. The round trips of Q2F and F2Q (43_convert.md R206): the value of a normal double fixes its bits. -/

namespace Sys2Proof.Machine

/-! ### The bits of a word from its fields -/

theorem word_eq_append (w : Word) :
    BitVec.ofBool (w.getLsbD 63) ++ w.extractLsb' 52 11 ++ w.extractLsb' 0 52 = w := by
  have hsign : BitVec.ofBool (w.getLsbD 63) = w.extractLsb' 63 1 := by
    ext i hi
    obtain rfl : i = 0 := by omega
    simp
  have hupper : w.extractLsb' 63 1 ++ w.extractLsb' 52 11 = w.extractLsb' 52 12 :=
    BitVec.extractLsb'_append_extractLsb'_eq_extractLsb' rfl
  have hall : w.extractLsb' 52 12 ++ w.extractLsb' 0 52 = w.extractLsb' 0 64 :=
    BitVec.extractLsb'_append_extractLsb'_eq_extractLsb' rfl
  rw [hsign, hupper, hall, BitVec.extractLsb'_eq_self]

/-- A word with a nonzero exponent field is the bits of the value it splits into. -/
theorem f64Bits_wordF64 {w : Word} (h : f64Exp w ≠ 0) : f64Bits (wordF64 w) = w := by
  have hexp : BitVec.ofInt 11 ((f64Exp w : Int) - 1075 + 1075) = w.extractLsb' 52 11 := by
    rw [sub_add_cancel, BitVec.ofInt_natCast, f64Exp, BitVec.ofNat_toNat, BitVec.setWidth_eq]
  have hfrac : BitVec.ofNat 52 (2 ^ 52 + f64Frac w - 2 ^ 52) = w.extractLsb' 0 52 := by
    rw [Nat.add_sub_cancel_left, f64Frac, BitVec.ofNat_toNat, BitVec.setWidth_eq]
  rw [wordF64, if_neg h, f64Bits, if_neg (by dsimp only; omega), hexp, hfrac, word_eq_append]

/-- The two words of zero. -/
theorem eq_zero_or_of_f64Value_eq_zero {w : Word} (h : f64Value w = 0) : w = 0 ∨ w = 0x8000000000000000#64 := by
  have hmag : (wordF64 w).mag = 0 := by rw [← F64.abs_value, value_wordF64, h, abs_zero]
  have hsig : (wordF64 w).sig = 0 := by simpa [F64.mag, zpow_ne_zero] using hmag
  obtain ⟨hexp, hfrac⟩ : f64Exp w = 0 ∧ f64Frac w = 0 := by
    unfold wordF64 at hsig
    split at hsig
    · exact ⟨‹_›, hsig⟩
    · dsimp only at hsig
      omega
  have hexp0 : w.extractLsb' 52 11 = 0 := BitVec.eq_of_toNat_eq hexp
  have hfrac0 : w.extractLsb' 0 52 = 0 := BitVec.eq_of_toNat_eq hfrac
  rw [← word_eq_append w, hexp0, hfrac0]
  cases w.getLsbD 63
  · exact .inl rfl
  · exact .inr rfl

/-- A double that is not tiny is normal. -/
theorem f64Exp_ne_zero_of_le {w : Word} (h : (2 : ℚ) ^ (-63 : Int) ≤ |f64Value w|) : f64Exp w ≠ 0 := by
  intro h0
  have hfrac : (f64Frac w : ℚ) < 2 ^ (52 : Int) := by exact_mod_cast f64Frac_lt w
  have hsmall : |f64Value w| < 2 ^ (-63 : Int) := by
    calc |f64Value w| = f64Frac w * 2 ^ (-1074 : Int) := by
          rw [← value_wordF64, F64.abs_value, wordF64, if_pos h0, F64.mag]
      _ < 2 ^ (52 : Int) * 2 ^ (-1074 : Int) := by gcongr
      _ = 2 ^ (-1022 : Int) := (zpow_add₀ two_ne_zero _ _).symm
      _ ≤ 2 ^ (-63 : Int) := zpow_le_zpow_right₀ one_le_two (by norm_num)
  exact absurd h hsmall.not_ge

theorem wordF64_normalized {w : Word} (h : f64Exp w ≠ 0) : (wordF64 w).Normalized := by
  refine ⟨?_, wordF64_sig_lt w⟩
  rw [wordF64, if_neg h]
  exact Nat.le_add_right _ _

/-! ### The value fixes the form -/

section
variable {f g : F64} (hf : f.Normalized) (hg : g.Normalized)
include hf hg

theorem F64.Normalized.exp_le_of_mag_le (h : f.mag ≤ g.mag) : f.exp ≤ g.exp := by
  have hsig1 : (2 : ℚ) ^ (52 : Int) ≤ f.sig := by exact_mod_cast hf.sig_ge
  have hsig2 : (g.sig : ℚ) < 2 ^ (53 : Int) := by exact_mod_cast hg.sig_lt
  have hpow : (2 : ℚ) ^ (52 + f.exp) < 2 ^ (53 + g.exp) := by
    calc (2 : ℚ) ^ (52 + f.exp) = 2 ^ (52 : Int) * 2 ^ f.exp := zpow_add₀ two_ne_zero _ _
      _ ≤ f.sig * 2 ^ f.exp := by gcongr
      _ ≤ g.sig * 2 ^ g.exp := h
      _ < 2 ^ (53 : Int) * 2 ^ g.exp := by gcongr
      _ = 2 ^ (53 + g.exp) := (zpow_add₀ two_ne_zero _ _).symm
  rw [zpow_lt_zpow_iff_right₀ one_lt_two] at hpow
  omega

omit hg in
theorem F64.Normalized.value_neg_iff : f.value < 0 ↔ f.neg = true := by
  have hmag := hf.mag_pos
  unfold F64.value
  cases f.neg
  · simpa using hmag.le
  · simpa using hmag

theorem F64.Normalized.eq_of_value_eq (h : f.value = g.value) : f = g := by
  have hneg : f.neg = g.neg := by rw [Bool.eq_iff_iff, ← hf.value_neg_iff, ← hg.value_neg_iff, h]
  have hmag : f.mag = g.mag := by rw [← f.abs_value, h, g.abs_value]
  have hexp : f.exp = g.exp := (hf.exp_le_of_mag_le hg hmag.le).antisymm (hg.exp_le_of_mag_le hf hmag.ge)
  have hsig : f.sig = g.sig := by
    rw [F64.mag, F64.mag, hexp] at hmag
    exact_mod_cast mul_right_cancel₀ (zpow_ne_zero _ two_ne_zero) hmag
  exact (F64.mk.injEq ..).mpr ⟨hneg, hsig, hexp⟩

end

/-! ### Q2F of the value of a word -/

section
variable {x : RatReg} (hx : x.valid = true)
include hx

theorem two_zpow_le_abs_value (h0 : x.num ≠ 0) : (2 : ℚ) ^ (-63 : Int) ≤ |x.value| := by
  have hd0 : (0 : ℚ) < x.den := by exact_mod_cast RatReg.den_pos_of_valid hx
  have hd : (x.den : ℚ) ≤ 2 ^ 63 := by
    obtain ⟨-, hmax, -⟩ := x.valid_iff_gcd.mp hx
    exact_mod_cast hmax.trans (by decide : MAX ≤ 2 ^ 63)
  have hn : (1 : ℚ) ≤ |(x.num : ℚ)| := by exact_mod_cast Int.one_le_abs h0
  rw [RatReg.value, abs_div, abs_of_pos hd0, zpow_neg, ← one_div]
  exact div_le_div₀ (abs_nonneg _) hn hd0 hd

/-- Q2F of the value of a double gives the double back, but for −0.0. -/
theorem f64Bits_toF64_of_value_eq {w : Word} (h : f64Value w = x.value) :
    f64Bits (toF64 x.toRatio) = if w = 0x8000000000000000#64 then 0 else w := by
  by_cases h0 : x.num = 0
  · rw [f64Bits_toF64_of_num_eq_zero h0]
    rcases eq_zero_or_of_f64Value_eq_zero (h.trans ((value_eq_zero_iff hx).mpr h0)) with rfl | rfl <;> rfl
  · have hexp : f64Exp w ≠ 0 := f64Exp_ne_zero_of_le (h ▸ two_zpow_le_abs_value hx h0)
    have hw : w ≠ 0x8000000000000000#64 := by
      rintro rfl
      exact hexp (by decide)
    have hnormal : (toF64 x.toRatio).Normal :=
      f64Div_f64OfInt_normal h0 (RatReg.den_pos_of_valid hx).ne' (natAbs_num_le x) (den_natAbs_lt_of_valid hx).le
    have hval : (toF64 x.toRatio).value = (wordF64 w).value := by
      rw [value_wordF64, h, ← (f64Value_toF64_eq_iff hx).mpr (h ▸ fitsSignificand_f64Value w)]
      exact (f64Value_f64Bits hnormal).symm
    rw [if_neg hw, hnormal.toNormalized.eq_of_value_eq (wordF64_normalized hexp) hval, f64Bits_wordF64 hexp]

/-- Q2F gives no infinity and no NaN. -/
theorem f64Exp_toF64_ne : f64Exp (f64Bits (toF64 x.toRatio)) ≠ 0x7FF := by
  by_cases h0 : x.num = 0
  · rw [f64Bits_toF64_of_num_eq_zero h0]
    decide
  · obtain ⟨-, hne, -⟩ := q2fResultIsNormal x hx h0
    exact hne

/-- F2Q's rule gives back a register whose Q2F was exact. -/
theorem fromF64_toF64 (h : exactFlag x.toRatio = true) : fromF64 (f64Bits (toF64 x.toRatio)) = .ok x.toRatio := by
  have hval := (f64Value_toF64_eq_iff hx).mpr (fitsSignificand_of_exactFlag hx h)
  rw [fromF64_of_finite (f64Exp_toF64_ne hx), hval, ← value_toRatio]
  exact exactOrReport_value (x.valid_iff_storable.mp hx)

end

/-! ### The machine -/

/-- A rule that ends without error has stored its pair. -/
theorem finishRatio_inversion {s t : State} {rd : QReg} {r : Except ErrKind Ratio} (h : finishRatio rd r s = .next t)
    (herr : statusErr t.status = 0) : ∃ p, r = .ok p ∧ t = completeOk (writeQ s rd (storeRatio p)) := by
  cases r with
  | ok p =>
    cases h
    exact ⟨p, rfl, rfl⟩
  | error e =>
    cases h
    rw [(failed_completeError e s).err] at herr
    cases e <;> exact absurd herr (by decide)

/-- A word F2Q accepts is stored as a valid register of its value. -/
theorem value_of_fromF64_ok {w : Word} {p : Ratio} (h : fromF64 w = .ok p) :
    (storeRatio p).valid = true ∧ f64Value w = (storeRatio p).value := by
  have hfinite : f64Exp w ≠ 0x7FF := by
    intro hexp
    rw [fromF64, if_pos hexp] at h
    split at h <;> cases h
  have hp : p.Storable := by
    have horder := inOrder_fromF64 w
    rw [h] at horder
    cases horder
    assumption
  rw [fromF64_of_finite hfinite] at h
  refine ⟨valid_storeRatio hp, ?_⟩
  rw [value_storeRatio hp, eq_lowestTerms_of_exactOrReport h]
  exact (Rat.num_div_den _).symm

section
variable {s t : State} {g : Vector Word 8} {q : Vector RatReg 8} {b : Bool}

theorem Done.readG_set {rd : GReg} {v : Word} (h : Done s t (g.set rd v) q b) : readG t rd = v := by
  simp [readG, h.g_eq]

theorem Done.readQ_set {rd : QReg} {x : RatReg} (h : Done s t g (q.set rd x) b) : readQ t rd = x := by
  simp [readQ, h.q_eq]

end

/-- Settles O57: either way the value is kept, and it fixes the bits of the register and of the double. -/
theorem conversionRoundTrips : Obligations.ConversionRoundTrips := by
  constructor
  · intro s t rd rs1 rd' hx h hexact
    obtain ⟨t', ht', hq2f⟩ := finishes_q2f rd hx
    obtain rfl : t' = t := by simpa [ht'] using h
    have hrule : fromF64 (readG t' rd) = .ok (readQ s rs1).toRatio := by
      rw [hq2f.readG_set, fromF64_toF64 hx (hq2f.exact_eq ▸ hexact)]
    obtain ⟨u, hu, hf2q⟩ := finishesQ_of_ok (i := .f2q rd' rd) (s := t') rfl hrule
    exact ⟨u, hu, hf2q.err, hf2q.readQ_set.trans (storeRatio_toRatio _)⟩
  · intro s t rd rs1 rd' h herr
    obtain ⟨p, hp, rfl⟩ := finishRatio_inversion (r := fromF64 (readG s rs1)) h herr
    obtain ⟨hvalid, hvalue⟩ := value_of_fromF64_ok hp
    have hread : readQ (completeOk (writeQ s rd (storeRatio p))) rd = storeRatio p := readQ_writeQ_same ..
    rw [← hread] at hvalid hvalue
    obtain ⟨u, hu, hq2f⟩ := finishes_q2f rd' hvalid
    exact ⟨u, hu, hq2f.err, hq2f.readG_set.trans (f64Bits_toF64_of_value_eq hvalid hvalue)⟩

end Sys2Proof.Machine
end

section
/-! PROOFS. NOP (44_system.md R230): its completion, and its one legal word among those with OPC 0x00 (R87). -/

namespace Sys2Proof.Machine

theorem exec_nop (s : State) : exec .nop s = .next (completeOk s) := rfl

/-- The row of OPC 0x00 in R86 has NOP only, and a Legal value is the encoding of its command. -/
theorem eq_zero_of_decode_of_opcOf_eq_zero {v : BitVec 64} {i : Instr} (hopc : opcOf v = 0x00#8)
    (h : decode v = .ok i) : v = 0 := by
  obtain ⟨-, -, hrow⟩ := decode_ok_iff.mp h
  rw [hopc] at hrow
  obtain ⟨-, rfl⟩ := noOperands_ok_iff.mp hrow
  obtain ⟨henc, -⟩ := decodeThenEncode v .nop h
  exact henc.symm.trans (by decide)

/-- R230: OPC 0x00 with any other bit set is not Legal. -/
theorem not_legal_of_opcOf_eq_zero {v : BitVec 64} (hopc : opcOf v = 0x00#8) (hv : v ≠ 0) : legal v = false := by
  rw [← Bool.not_eq_true, legal_iff]
  rintro ⟨i, h⟩
  exact hv (eq_zero_of_decode_of_opcOf_eq_zero hopc h)

/-- Settles O29: NOP is `completeOk`; of the values with OPC 0x00 only 0 is Legal, and O6 gives the report. -/
theorem nopClearsErrOnly : Obligations.NopClearsErrOnly := by
  refine ⟨fun s => ⟨_, exec_nop s, ?_⟩, encodeThenDecode .nop rfl, fun s hr he hopc hv => ?_⟩
  · exact done_completeOk rfl rfl (.inl rfl) rfl rfl rfl rfl
  · have hl : legal s.cmd = false := not_legal_of_opcOf_eq_zero hopc hv
    exact ⟨hl, illegalCommandIsReported s hr he hl⟩

end Sys2Proof.Machine
end

section
/-! PROOFS. Exceptions (60_exceptions.md): that a host which presents only admitted accesses never sees the machine stop
(R243, 70_reset_and_hazards.md R273, R277), and the error kinds each command can report (R241). -/

namespace Sys2Proof.Machine

/-! ### A host with only admitted accesses -/

/-- A property that lets the machine step and that the step keeps lets it run for any number of steps. -/
theorem run_next_of_invariant (M : Host.Core) {P : M.State → Prop}
    (hstep : ∀ s, P s → ∃ t, M.step s = .next t ∧ P t) (k : Nat) (s : M.State) (h : P s) :
    ∃ t, M.run k s = .next t := by
  induction k generalizing s with
  | zero => exact ⟨s, rfl⟩
  | succ k ih =>
    obtain ⟨t, ht, hP⟩ := hstep s h
    rw [run_succ_of_step M ht]
    exact ih t hP

section
variable {s : State}

theorem writePort_inputs (r : PortReg) (v : Word) (s : State) : (writePort r v s).inputs = s.inputs := by
  cases r <;> rfl

/-- An admitted access is performed, and takes nothing from the inputs to come (20_memory.md R64). -/
theorem performAccess_next {a : HostAccess} (h : (admittedReg a).isSome = true) (s : State) :
    ∃ t, performAccess a s = .next t ∧ t.inputs = s.inputs := by
  obtain ⟨r, hr⟩ := Option.isSome_iff_exists.mp h
  cases hk : a.kind with
  | read => exact ⟨_, performAccess_of_read hr hk, rfl⟩
  | write v => exact ⟨_, performAccess_of_write hr hk, writePort_inputs r v s⟩

theorem idleCycle_next (h : HostAdmitted s) : ∃ t, idleCycle s = .next t ∧ t.inputs ⊆ s.inputs := by
  unfold idleCycle
  split
  next a rest hi =>
    have ha : (admittedReg a).isSome = true := h a (hi ▸ List.mem_cons_self)
    obtain ⟨t, ht, hin⟩ := performAccess_next ha { s with inputs := rest }
    refine ⟨t, ht, ?_⟩
    rw [hin, hi]
    exact List.subset_cons_self _ _
  next => exact ⟨_, rfl, List.tail_subset _⟩

/-- Whatever the cycle is, it answers a next state and adds nothing to what the host will present. -/
theorem step_next (h : HostAdmitted s) : ∃ t, step s = .next t ∧ t.inputs ⊆ s.inputs := by
  cases hr : resetAsserted s with
  | true => exact ⟨resetCycle s, by simp [step, hr], List.tail_subset _⟩
  | false =>
    cases he : s.engine with
    | idle =>
      have hstep : step s = idleCycle s := by simp [step, hr, he]
      rw [hstep]
      exact idleCycle_next h
    | executing n =>
      obtain ⟨t, ht, -, hin, -⟩ := step_of_executing he hr
      exact ⟨t, ht, hin ▸ busyPort_inputs_subset s⟩

end

/-- Settles O13: a step of an admitted host goes on, and the host is still admitted after it. -/
theorem admittedHostNeverStops : Obligations.AdmittedHostNeverStops := by
  refine run_next_of_invariant Sys2Proof.core fun s h => ?_
  obtain ⟨t, ht, hin⟩ := step_next h
  exact ⟨t, ht, fun a ha => h a (hin ha)⟩

/-! ### The errors of the rules that end in a pair or an error -/

/-- If the rule answers an error, its kind is in `es`. -/
def ErrorsIn (es : List ErrKind) (r : Except ErrKind Ratio) : Prop := ∀ e, r = .error e → e ∈ es

section
variable {es : List ErrKind} {r : Except ErrKind Ratio}

theorem errorsIn_ok (p : Ratio) : ErrorsIn es (.ok p) := by
  rintro _ ⟨⟩

theorem errorsIn_error {e : ErrKind} (h : e ∈ es) : ErrorsIn es (.error e) := by
  rintro _ ⟨⟩
  exact h

theorem ErrorsIn.mono {es' : List ErrKind} (h : ErrorsIn es r) (hsub : es ⊆ es') : ErrorsIn es' r :=
  fun e he => hsub (h e he)

theorem errorsIn_reduce (n d : Int) : ErrorsIn [.denominatorInvalid, .numeratorOverflow] (reduce n d) := by
  unfold reduce
  split
  · exact errorsIn_error (by decide)
  · split
    · exact errorsIn_ok _
    · split
      · exact errorsIn_error (by decide)
      · exact errorsIn_ok _

theorem errorsIn_rangeTested (q l : Nat) (z : ℚ) :
    ErrorsIn [.denominatorOverflow, .numeratorOverflow] (rangeTested q l z) := by
  unfold rangeTested
  split
  · exact errorsIn_error (by decide)
  · split
    · exact errorsIn_error (by decide)
    · exact errorsIn_ok _

theorem errorsIn_invCore (x : Ratio) : ErrorsIn [.divisionByZero] (invCore x) := by
  unfold invCore
  split
  · exact errorsIn_error (by decide)
  · exact errorsIn_ok _

section
variable {x y : Ratio} (hx : x.Storable) (hy : y.Storable)
include hx hy

theorem errorsIn_addRatio : ErrorsIn [.denominatorOverflow, .numeratorOverflow] (addRatio x y) :=
  addRatio_eq hx hy ▸ errorsIn_rangeTested _ _ _

theorem errorsIn_subRatio : ErrorsIn [.denominatorOverflow, .numeratorOverflow] (subRatio x y) :=
  errorsIn_addRatio hx (storable_negRatio hy)

theorem errorsIn_mulCore : ErrorsIn [.denominatorOverflow, .numeratorOverflow] (mulCore x y) :=
  mulCore_eq hx hy ▸ errorsIn_rangeTested _ _ _

/-- A zero divisor, or the range tests of the quotient (42_arith.md R164). -/
theorem errorsIn_divRatio :
    ErrorsIn [.denominatorOverflow, .numeratorOverflow, .divisionByZero] (divRatio x y) := by
  by_cases h0 : y.num = 0
  · rw [divRatio_of_num_eq_zero x h0]
    exact errorsIn_error (by decide)
  · rw [divRatio_eq hx hy h0]
    exact (errorsIn_rangeTested _ _ _).mono (by simp)

end

/-- An infinity, a NaN, or the range tests of a finite double (43_convert.md R203, R204). -/
theorem errorsIn_fromF64 (w : Word) :
    ErrorsIn [.denominatorOverflow, .numeratorOverflow, .operandInvalid] (fromF64 w) := by
  by_cases hexp : f64Exp w = 0x7FF
  · rw [fromF64, if_pos hexp]
    split
    · exact errorsIn_error (by decide)
    · exact errorsIn_error (by decide)
  · rw [fromF64_of_finite hexp]
    exact (errorsIn_rangeTested _ _ _).mono (by simp)

end

/-! ### The errors of the shared operations -/

/-- If the result is a next state whose ERR holds the code of an error kind, that kind is in `es`. -/
def ReportsOnly (es : List ErrKind) (r : Result) : Prop :=
  ∀ t e, r = .next t → statusErr t.status = errCode e → e ∈ es

section
variable {es : List ErrKind} {s : State}

theorem reportsOnly_raise {e : ErrKind} (h : e ∈ es) : ReportsOnly es (raise e s) := by
  rintro _ e' ⟨⟩ herr
  have hcode : errCode e = errCode e' := (failed_completeError e s).err.symm.trans herr
  exact errCode_injective e e' hcode ▸ h

/-- ERR is 0, which is the code of no error (R240). -/
theorem reportsOnly_finish (s : State) : ReportsOnly es (finish s) := by
  rintro _ e ⟨⟩ herr
  have hzero : errCode e = 0 := by simpa using herr.symm
  exact absurd hzero (errCode_ne_zero e)

theorem reportsOnly_finishRatio {es' : List ErrKind} {rd : QReg} {r : Except ErrKind Ratio} (h : ErrorsIn es' r)
    (hsub : es' ⊆ es) : ReportsOnly es (finishRatio rd r s) := by
  cases r with
  | ok p => exact reportsOnly_finish _
  | error e => exact reportsOnly_raise (hsub (h e rfl))

theorem reportsOnly_checkQ {x : RatReg} {rule : Ratio → Result} (hop : .operandInvalid ∈ es)
    (h : x.toRatio.Storable → ReportsOnly es (rule x.toRatio)) : ReportsOnly es (checkQ x s rule) := by
  unfold checkQ
  split
  · exact h (x.valid_iff_storable.mp ‹_›)
  · exact reportsOnly_raise hop

theorem reportsOnly_checkQQ {x y : RatReg} {rule : Ratio → Ratio → Result} (hop : .operandInvalid ∈ es)
    (h : x.toRatio.Storable → y.toRatio.Storable → ReportsOnly es (rule x.toRatio y.toRatio)) :
    ReportsOnly es (checkQQ x y s rule) :=
  reportsOnly_checkQ hop fun hx => reportsOnly_checkQ hop fun hy => h hx hy

/-! ### The errors of the commands -/

theorem reportsOnly_execXgcd {rd rs1 rs2 rd2 rd3 : GReg} (hdist : distinctDests rd rd2 rd3 = true) :
    ReportsOnly [.operandInvalid] (execXgcd rd rs1 rs2 rd2 rd3 s) := by
  simp only [execXgcd, if_pos hdist]
  split
  · exact reportsOnly_finish _
  · exact reportsOnly_raise (by decide)

theorem reportsOnly_execGcd (rd rs1 rs2 : GReg) : ReportsOnly [.operandInvalid] (execGcd rd rs1 rs2 s) := by
  unfold execGcd
  dsimp only
  split
  · exact reportsOnly_finish _
  · exact reportsOnly_raise (by decide)

end

/-- R241, command by command: the operand check, if there is one, and the errors of the rule. -/
theorem reportsOnly_exec {i : Instr} (s : State) (hi : wellFormed i = true) :
    ReportsOnly (possibleErrors i) (exec i s) := by
  unfold exec possibleErrors
  cases i with
  | nop | qvalid | qmov => exact reportsOnly_finish _
  | xgcd rd rs1 rs2 rd2 rd3 => exact reportsOnly_execXgcd hi
  | gcd rd rs1 rs2 => exact reportsOnly_execGcd rd rs1 rs2
  | qnew => exact reportsOnly_finishRatio (errorsIn_reduce _ _) (by simp)
  | qnum | qden | qsgn | qisz | qneg | qabs | q2f => exact reportsOnly_checkQ (by simp) fun _ => reportsOnly_finish _
  | qcmp => exact reportsOnly_checkQQ (by simp) fun _ _ => reportsOnly_finish _
  | qadd => exact reportsOnly_checkQQ (by simp) fun hx hy => reportsOnly_finishRatio (errorsIn_addRatio hx hy) (by simp)
  | qsub => exact reportsOnly_checkQQ (by simp) fun hx hy => reportsOnly_finishRatio (errorsIn_subRatio hx hy) (by simp)
  | qmul => exact reportsOnly_checkQQ (by simp) fun hx hy => reportsOnly_finishRatio (errorsIn_mulCore hx hy) (by simp)
  | qdiv => exact reportsOnly_checkQQ (by simp) fun hx hy => reportsOnly_finishRatio (errorsIn_divRatio hx hy) (by simp)
  | qinv => exact reportsOnly_checkQ (by simp) fun _ => reportsOnly_finishRatio (errorsIn_invCore _) (by simp)
  | f2q => exact reportsOnly_finishRatio (errorsIn_fromF64 _) (by simp)

/-- Settles O22: an error kind is known by its code, which ERR holds. -/
theorem commandsReportOnlyTheirErrors : Obligations.CommandsReportOnlyTheirErrors := by
  rintro i s e hi ⟨t, ht, hfail⟩
  exact reportsOnly_exec s hi t e ht hfail.err

end Sys2Proof.Machine
end

section
/-! PROOFS. A cycle with reset asserted (70_reset_and_hazards.md R270), whatever the engine was doing. -/

namespace Sys2Proof.Machine

section
variable {s : State}

theorem resetAsserted_of_reset {rest : List Input} (hi : s.inputs = .reset :: rest) : resetAsserted s = true := by
  simp [resetAsserted, hi]

/-- Reset comes before the engine's part of the cycle: the engine's state plays no part. -/
theorem step_of_reset (hr : resetAsserted s = true) : step s = .next (resetCycle s) := by
  simp [step, hr]

/-- The register files of the reset cycle are those of `State.reset`. -/
theorem readG_resetCycle (s : State) (i : GReg) : readG (resetCycle s) i = 0 := readG_reset i

theorem readQ_resetCycle (s : State) (i : QReg) : readQ (resetCycle s) i = ⟨0, 0⟩ := readQ_reset i

end

/-- Settles O10: the step is the reset cycle, which keeps the model's own two lists only. -/
theorem resetCycleSetsTheResetValues : Obligations.ResetCycleSetsTheResetValues := by
  intro s rest hi
  have hstep : step s = .next (resetCycle s) := step_of_reset (resetAsserted_of_reset hi)
  have hinputs : (resetCycle s).inputs = rest := by rw [resetCycle_inputs, hi, List.tail_cons]
  exact ⟨resetCycle s, hstep, readG_resetCycle s, readQ_resetCycle s, resetCycle_status s, resetCycle_cmd s,
    resetCycle_engine s, hinputs, resetCycle_returned s⟩

end Sys2Proof.Machine
end
